-- ==== Sys2Proof/Word.lean ====
section
/-!
DEFINITION. The words of the machine: bytes, 32-bit header words, and pixels of four channels (00_scope R7, R8, R11; 10_state R22).
-/

namespace Sys2Proof

/-- `u8` (00_scope R7): a byte of a buffer, a pixel channel, a header byte. -/
abbrev Byte := BitVec 8

/-- `u32` (00_scope R7): the header's width and height. -/
abbrev U32 := BitVec 32

/-- A pixel: four u8 channels in the fixed order R, G, B, A, equal exactly when all four are (10_state R22, 00_scope R11). -/
structure Pixel where
  r : Byte
  g : Byte
  b : Byte
  a : Byte
deriving DecidableEq, Repr, Inhabited

/-- Transparent black, (0,0,0,0) (00_scope R11). -/
def Pixel.zero : Pixel := ⟨0, 0, 0, 0⟩

end Sys2Proof
end

