-- ==== Sys2Proof/Syntax.lean ====
section
/-!
DEFINITION. The instruction set as plain terms: the six chunk kinds of the opcode table with the unbiased operands of
30_encoding R88 and R97, the header tuple of R92, and the items of the assembler form (R97, R98).
-/

namespace Sys2Proof

/-- One chunk of the opcode stream. Operands are the unbiased values of 30_encoding R88; which values have an encoding
is `Instr.WellFormed`. -/
inductive Instr where
  /-- `INDEX i`: the pixel of cache slot `i` (R184). -/
  | index (i : BitVec 6)
  /-- `DIFF dr,dg,db`: small deltas from the previous pixel (R185). -/
  | diff (dr dg db : Int)
  /-- `LUMA dg,drg,dbg`: a green delta and the red and blue differences from it (R186). -/
  | luma (dg drg dbg : Int)
  /-- `RUN c`: `c` copies of the previous pixel (R189). -/
  | run (c : Nat)
  /-- `RGB r,g,b`: three raw channels, alpha carried forward (R187). -/
  | rgb (r g b : Byte)
  /-- `RGBA r,g,b,a`: four raw channels (R188). -/
  | rgba (r g b a : Byte)
deriving DecidableEq, Repr, Inhabited

/-- The six chunk kinds a tag byte can select (30_encoding R81, R89). -/
inductive ChunkKind where
  | index | diff | luma | run | rgb | rgba
deriving DecidableEq, Repr

/-- The kind of a chunk. -/
def Instr.kind : Instr → ChunkKind
  | .index _ => .index
  | .diff _ _ _ => .diff
  | .luma _ _ _ => .luma
  | .run _ => .run
  | .rgb _ _ _ => .rgb
  | .rgba _ _ _ _ => .rgba

/-- The header tuple (30_encoding R92): width, height, channels, color space. It is also the 80-bit `hdr` of
10_state R32 and the header latch of R34. -/
structure Header where
  width : U32
  height : U32
  channels : Byte
  colorSpace : Byte
deriving DecidableEq, Repr, Inhabited

/-- One line of the assembler form: a chunk, or one of the two pseudo-instructions HDR and END (30_encoding R97, R98). -/
inductive Item where
  | hdr (h : Header)
  | chunk (i : Instr)
  | fin
deriving DecidableEq, Repr

end Sys2Proof
end

