-- ==== Sys2Proof/Config.lean ====
section
/-!
DEFINITION. What a block instance fixes (00_scope R5, 70_reset R341) and the free values of the model.

The parameters are plain data. State carries them in its field `cfg`, so that every statement quantifies over all
instances (log 2); no step changes them. The opaque constants have no body: no proof can learn a value of one.
-/

namespace Sys2Proof

/-- `HASH_COEFFS` = (kR,kG,kB,kA) (00_scope R5, 41_pixel_cache R130). -/
structure HashCoeffs where
  kR : Nat
  kG : Nat
  kB : Nat
  kA : Nat
deriving DecidableEq, Repr, Inhabited

/-- `END_MARKER_CHECK` (00_scope R5, 45_file_and_commands R273). -/
inductive MarkerCheck where
  | ignore | enforce | either
deriving DecidableEq, Repr, Inhabited

/-- `BUFFER_BASES` (20_memory R58): where the platform puts the four buffers. No rule reads it. -/
structure BufferBases where
  inBase : Nat
  outBase : Nat
  pixInBase : Nat
  pixOutBase : Nat
deriving DecidableEq, Repr, Inhabited

/-- The named parameters of 00_scope R5, constants of a block instance (70_reset R341). Encoder and decoder read the
one value (41_pixel_cache R136). -/
structure Config where
  hashCoeffs : HashCoeffs
  seedPixel : Pixel
  endMarker : List Byte
  endMarkerCheck : MarkerCheck
  /-- `MAX_PIXELS`: none is unbounded. -/
  maxPixels : Option Nat
  /-- `POS_WIDTH`: none is the model's unbounded naturals. -/
  posWidth : Option Nat
  /-- `BUFFER_BASES`: OPEN. -/
  bufferBases : Option BufferBases
deriving DecidableEq, Repr, Inhabited

/-- The defaults of 00_scope R5. HASH_COEFFS and END_MARKER are marked there as general knowledge (log 16). -/
def Config.default : Config where
  hashCoeffs := ⟨3, 5, 7, 11⟩
  seedPixel := Pixel.zero
  endMarker := [0, 0, 0, 0, 0, 0, 0, 1]
  endMarkerCheck := .either
  maxPixels := none
  posWidth := none
  bufferBases := none

/-- `K`, the length of END_MARKER (00_scope R5). -/
def Config.markerLen (c : Config) : Nat := c.endMarker.length

/-! ## Free values: no body, one fresh index per use (the state's counter `draws`) -/

/-- The draw of `end_marker_check` under EITHER (45 R273, 93 U6): true is `return` (log 6). -/
opaque Config.freeBool : Nat → Bool

/-- What a pixel register holds where the spec gives it no value (10_state R35; log 7). -/
opaque Config.freePixel : Nat → Pixel

/-- What the cache holds where the spec gives it no value (10_state R35; log 7). -/
opaque Config.freeCache : Nat → Vector Pixel 64

/-- What a counter holds where the spec gives it no value; the second argument tells the counters apart (10_state R35; log 7). -/
opaque Config.freeNat : Nat → Nat → Nat

/-- What the header latch holds where the spec gives it no value (10_state R35; log 7). -/
opaque Config.freeHeader : Nat → Header

/-- What the encoder's `out` holds where the spec gives it no value (10_state R35; log 7). -/
opaque Config.freeBytes : Nat → List Byte

/-- What OUT holds where its contents are no result (93 U2; log 8). -/
opaque Config.freeOut : Nat → List Byte

/-- What PIXOUT holds where its contents are no result (93 U2; log 8). -/
opaque Config.freePixOut : Nat → List Pixel

end Sys2Proof
end

