-- ==== Sys2Proof/Machine/State.lean ====
section
/-!
DEFINITION. The state of the QOI codec core as plain data (10_state), the commands and host moves that are data in it,
the reasons a step can stop, and the state after reset.
-/

namespace Sys2Proof.Machine

/-! ## Status (10_state R32, 60_exceptions R300) -/

/-- `phase`. Its 3-bit values are `Phase.code`; the values 4 to 7 are never produced (R32, 93 U7). -/
inductive Phase where
  | idle | busy | done | error
deriving DecidableEq, Repr

/-- `err`: none, or one of the eleven error codes of 60_exceptions R300. The 4-bit numbers are `ErrCode.code`. -/
inductive ErrCode where
  | none
  | hdrLength
  | hdrMagic
  | hdrChannels
  | hdrColorSpace
  | truncated
  | trailing
  | runOverflow
  | encShape
  | fileShort
  | endMarker
  | capacity
deriving DecidableEq, Repr

/-! ## Commands and host moves (45 R276, 70 R346) -/

/-- The command set with its operands (45_file_and_commands R276). Byte and pixel inputs are taken from IN and PIXIN. -/
inductive Command where
  | hdrEnc (h : Header)
  | hdrDec
  | encode
  | decode (n : Nat)
  | fileEnc (h : Header)
  | fileDec
deriving DecidableEq, Repr

/-- Which part of a running transaction's pseudocode comes next: its checks and initialisation, its encode loop
(44 R230) or its decode loop (43 R180). -/
inductive Stage where
  | start | encode | decode
deriving DecidableEq, Repr

/-- What the host may do (70_reset R346), reads included: a read changes nothing, and one the spec forbids is refused. -/
inductive HostMove where
  | issue (c : Command)
  | writeIn (bytes : List Byte)
  | writePixIn (pixels : List Pixel)
  | reset
  | readPhase
  | readErr
  | readOutLen
  | readHdr
  | readOut
  | readPixOut
deriving DecidableEq, Repr

/-- Whose turn the next step is (10_state R20: two agents). -/
inductive Turn where
  | engine
  | host (m : HostMove)
deriving DecidableEq, Repr

/-! ## Buffers (20_memory R50 to R53) -/

/-- A buffer: its entries by address, in strictly rising order. An unlisted address holds nothing: it is outside the
buffer (log 9). -/
abbrev Buffer (α : Type) := List (Nat × α)

/-- A byte buffer, IN or OUT. -/
abbrev Memory := List Host.Cell

/-- The canonical form of a buffer: addresses strictly rising. No entry can equal what an unlisted address reads as,
since an unlisted address reads as nothing. -/
abbrev Buffer.wf {α : Type} (m : Buffer α) : Prop := (m.map Prod.fst).Pairwise (· < ·)

/-- The canonical form of a byte buffer. -/
abbrev Memory.wf (m : Memory) : Prop := Buffer.wf m

/-- The buffer is a string (00_scope R8): its addresses are 0 to its length less one. -/
def Buffer.Dense {α : Type} (m : Buffer α) : Prop := m.map Prod.fst = List.range m.length

/-! ## The state -/

/-- Everything the spec gives the machine. INVENTORY.md lists each field with its rule. -/
structure State where
  /-- The instance's parameters (70_reset R341); no step changes them. -/
  cfg : Config
  /-- R32. -/
  phase : Phase
  /-- R32. -/
  err : ErrCode
  /-- R32; none is the spec's own state "unspecified". -/
  outLen : Option Nat
  /-- R32; none is the spec's own state "unspecified". -/
  hdr : Option Header
  /-- IN (20_memory R50). -/
  inBuf : Memory
  /-- OUT (20_memory R51). -/
  outBuf : Memory
  /-- PIXIN (20_memory R52). -/
  pixIn : Buffer Pixel
  /-- PIXOUT (20_memory R53). -/
  pixOut : Buffer Pixel
  /-- Previous-pixel register (R23). -/
  prev : Pixel
  /-- Pixel cache register file (R24). -/
  cache : Vector Pixel 64
  /-- Decoder position, the decoder's program counter (R26). -/
  inPos : Nat
  /-- Decoder output counter (R27). -/
  outPos : Nat
  /-- Encoder position, the encoder's program counter (R30). -/
  pixPos : Nat
  /-- Encoder run counter (R29). -/
  run : Nat
  /-- Encoder output (R31). -/
  out : List Byte
  /-- Header latch (R34). -/
  latch : Header
  /-- The transaction's pixel count (R25, R28, R34). -/
  n : Nat
  /-- Where the payload P starts in IN (R25; 45 R272). -/
  payBase : Nat
  /-- The length of the payload, |P| (R25). -/
  payLen : Nat
  /-- The command of the running or last transaction, none before the first issue after reset (45 R276). -/
  cmd : Option Command
  /-- How far the running transaction is. -/
  stage : Stage
  /-- The model's own: the index of the next free value (logs 6 to 8). -/
  draws : Nat
  /-- The model's own: the turns the environment has planned; none planned is the engine's turn (log 3). -/
  turns : List Turn
deriving DecidableEq, Repr

/-! ## Stops -/

/-- Faults. None is met in a state that a run from reset reaches (`Inv`); each is safe: the machine stops where the
spec gives no meaning. -/
inductive Fault where
  /-- MemRead outside IN (20_memory R56: a read is defined only inside the string). Raised by `readIn`. Safe. -/
  | memReadOutside
  /-- PixRead outside PIXIN (20_memory R56: the state machines never form any other index). Raised by `encodeStep`. Safe. -/
  | pixReadOutside
  /-- BUSY with no transaction: the spec has no such state (70_reset R351). Raised by `engineStep`. Safe. -/
  | noTransaction
deriving DecidableEq, Repr

/-- Refusals. Each is one the spec itself asks for (93_implementation_defined), but for `notModelled`, which no arm
uses. All are safe: nothing is claimed of what comes after. -/
inductive Refusal where
  /-- An instruction without a meaning yet. Raised by no arm. Safe. -/
  | notModelled (mnemonic : String)
  /-- A command issued while BUSY (45 R277, 93 U4). Raised by `hostIssue`. Safe. -/
  | issueWhileBusy
  /-- IN or PIXIN written while BUSY (20 R62, 93 U5). Raised by `hostWriteIn`, `hostWritePixIn`. Safe. -/
  | inputWriteWhileBusy
  /-- OUT or PIXOUT read while BUSY (20 R62, 93 U5). Raised by `readOut`, `readPixOut`. Safe. -/
  | outputReadWhileBusy
  /-- OUT or PIXOUT read where it is no result (20 R61, 93 U2). Raised by `readOut`, `readPixOut`. Safe. -/
  | outputNotAResult
  /-- `outLen` read where it is unspecified (10 R32, 93 U1). Raised by `readOutLen`. Safe. -/
  | outLenUnspecified
  /-- `hdr` read where it is unspecified (10 R32, 93 U1). Raised by `readHdr`. Safe. -/
  | hdrUnspecified
  /-- |P|, n or the output length reaches 2^POS_WIDTH of an instance with a finite POS_WIDTH (93 U14). Raised by
  `startDecode`, `startEncode` and `checkOutLen`. Safe. -/
  | posWidthExceeded
deriving DecidableEq, Repr

/-! ## Reset -/

/-- Power-on, with the default parameters: `phase = IDLE`, `err = 0`, `outLen` and `hdr` unspecified (70_reset R340).
The working state is undefined in the spec and the buffers' contents are not given: the values here are the model's
(logs 1 and 9). -/
def State.reset : State where
  cfg := Config.default
  phase := .idle
  err := .none
  outLen := none
  hdr := none
  inBuf := []
  outBuf := []
  pixIn := []
  pixOut := []
  prev := Pixel.zero
  cache := Vector.replicate 64 Pixel.zero
  inPos := 0
  outPos := 0
  pixPos := 0
  run := 0
  out := []
  latch := ⟨0, 0, 0, 0⟩
  n := 0
  payBase := 0
  payLen := 0
  cmd := none
  stage := .start
  draws := 0
  turns := []

end Sys2Proof.Machine
end

