-- ==== Sys2Proof/Machine/Operands.lean ====
section
/-!
DEFINITION. The operand arithmetic: signed deltas with modulo-256 wraparound (40_delta_arith), the cache hash
(41_pixel_cache R130), big-endian packing (00_scope R8) and the byte view of a pixel (10_state R22).
-/

namespace Sys2Proof.Machine

/-- `wrap8(v) = v mod 256` (00_scope R7), as a byte. -/
def wrap8 (v : Int) : Byte := BitVec.ofNat 8 (v % 256).toNat

/-- `sext_8(v)`: `v` if `v < 128`, else `v − 256` (00_scope R7). -/
def sext8 (v : Byte) : Int := if v.toNat < 128 then (v.toNat : Int) else (v.toNat : Int) - 256

/-- `add8(a, d) = (a + d) mod 256` (40_delta_arith R110). -/
def add8 (a : Byte) (d : Int) : Byte := wrap8 ((a.toNat : Int) + d)

/-- `padd(p, dr, dg, db)`: lane by lane, alpha unchanged (40_delta_arith R111). -/
def padd (p : Pixel) (dr dg db : Int) : Pixel := ⟨add8 p.r dr, add8 p.g dg, add8 p.b db, p.a⟩

/-- `delta8(c, p) = sext_8((c − p) mod 256)` (40_delta_arith R112). -/
def delta8 (c p : Byte) : Int := sext8 (wrap8 ((c.toNat : Int) - (p.toNat : Int)))

/-- The four deltas of `pdelta` (40_delta_arith R113). -/
structure Deltas where
  dR : Int
  dG : Int
  dB : Int
  dA : Int
deriving DecidableEq, Repr

/-- `pdelta(c, p)` (40_delta_arith R113). -/
def pdelta (c p : Pixel) : Deltas := ⟨delta8 c.r p.r, delta8 c.g p.g, delta8 c.b p.b, delta8 c.a p.a⟩

/-- `dRG = dR − dG`, not wrapped again (40_delta_arith R114). -/
def dRG (d : Deltas) : Int := d.dR - d.dG

/-- `dBG = dB − dG`, not wrapped again (40_delta_arith R114). -/
def dBG (d : Deltas) : Int := d.dB - d.dG

/-- `hash(p) = (kR·r + kG·g + kB·b + kA·a) mod 64` (41_pixel_cache R130). -/
def hash (k : HashCoeffs) (p : Pixel) : BitVec 6 :=
  BitVec.ofNat 6 (k.kR * p.r.toNat + k.kG * p.g.toNat + k.kB * p.b.toNat + k.kA * p.a.toNat)

/-- `be32(v)` (00_scope R8). -/
def be32 (v : U32) : List Byte :=
  [v.extractLsb' 24 8, v.extractLsb' 16 8, v.extractLsb' 8 8, v.extractLsb' 0 8]

/-- `unbe32(s)` of four bytes (00_scope R8); an unsigned value (42_header R152). -/
def unbe32 (b0 b1 b2 b3 : Byte) : U32 :=
  BitVec.ofNat 32 (b0.toNat * 2 ^ 24 + b1.toNat * 2 ^ 16 + b2.toNat * 2 ^ 8 + b3.toNat)

/-- The pixel count `width × height`, the exact product (42_header R152). -/
def pixelCount (h : Header) : Nat := h.width.toNat * h.height.toNat

/-- A pixel laid out as bytes: R at byte 0, G at 1, B at 2, A at 3 (10_state R22). -/
def pixelBytes (p : Pixel) : List Byte := [p.r, p.g, p.b, p.a]

end Sys2Proof.Machine
end

