-- ==== Sys2Proof/Machine/Flags.lean ====
section
/-!
DEFINITION. The machine has no flags and no condition codes (10_state R33). What other machines keep as flags are here the
encoder's internal comparisons, the range windows of 40_delta_arith R115; none is kept as state after the step.
-/

namespace Sys2Proof.Machine

/-- `inDiff(d)`: −2 ≤ d ≤ 1 (40_delta_arith R115). -/
def inDiff (d : Int) : Bool := decide (-2 ≤ d) && decide (d ≤ 1)

/-- `inLumaG(d)`: −32 ≤ d ≤ 31 (40_delta_arith R115). -/
def inLumaG (d : Int) : Bool := decide (-32 ≤ d) && decide (d ≤ 31)

/-- `inLumaX(d)`: −8 ≤ d ≤ 7 (40_delta_arith R115). -/
def inLumaX (d : Int) : Bool := decide (-8 ≤ d) && decide (d ≤ 7)

/-- DIFF's condition on the deltas: alpha unchanged and the three deltas in the window (44_encode R238). -/
def fitsDiff (d : Deltas) : Bool := decide (d.dA = 0) && inDiff d.dR && inDiff d.dG && inDiff d.dB

/-- LUMA's condition on the deltas: alpha unchanged, green and the cross differences in their windows (44_encode R239). -/
def fitsLuma (d : Deltas) : Bool := decide (d.dA = 0) && inLumaG d.dG && inLumaX (dRG d) && inLumaX (dBG d)

end Sys2Proof.Machine
end

