-- ==== Sys2Proof/Machine/Ops.lean ====
section
/-!
DEFINITION. The named operations over buffers, cache and registers: every meaning is built of these. The abort of
60_exceptions R312, which plays the part of taking an exception, is `raise`; the return from one is no operation
(R317: there is no handler and no return), the host simply issues the next command or resets.
-/

namespace Sys2Proof.Machine

/-- The three outcomes of a step. -/
abbrev Result := Host.Outcome State Fault Refusal

/-! ## Status codes -/

/-- The 3-bit value of `phase` (10_state R32). -/
def Phase.code : Phase → BitVec 3
  | .idle => 0
  | .busy => 1
  | .done => 2
  | .error => 3

/-- The 4-bit value of `err` (60_exceptions R300). -/
def ErrCode.code : ErrCode → BitVec 4
  | .none => 0
  | .hdrLength => 1
  | .hdrMagic => 2
  | .hdrChannels => 3
  | .hdrColorSpace => 4
  | .truncated => 5
  | .trailing => 6
  | .runOverflow => 7
  | .encShape => 8
  | .fileShort => 9
  | .endMarker => 10
  | .capacity => 11

/-! ## Buffers: the primitives of 00_scope R9 -/

/-- The length of a buffer, `|IN|`, `|OUT|` (00_scope R8). -/
def Buffer.size {α : Type} (m : Buffer α) : Nat := m.length

/-- Read one entry; nothing at an address outside the buffer. -/
def Buffer.read {α : Type} : Buffer α → Nat → Option α
  | [], _ => none
  | (k, x) :: rest, a => if k = a then some x else Buffer.read rest a

/-- Write one entry, keeping the addresses in rising order. -/
def Buffer.write {α : Type} : Buffer α → Nat → α → Buffer α
  | [], a, v => [(a, v)]
  | (k, x) :: rest, a, v =>
    if a < k then (a, v) :: (k, x) :: rest
    else if a = k then (a, v) :: rest
    else (k, x) :: Buffer.write rest a v

/-- `MemRead(m, a, n)`: entries `a` to `a + n - 1`, only where all of them are in the buffer (00_scope R9, 20_memory R56). -/
def Buffer.readN {α : Type} (m : Buffer α) : Nat → Nat → Option (List α)
  | _, 0 => some []
  | a, n + 1 =>
    match Buffer.read m a, Buffer.readN m (a + 1) n with
    | some x, some xs => some (x :: xs)
    | _, _ => none

/-- `MemWrite(m, a, n, v)`: the entries of `v` from address `a` on (00_scope R9). -/
def Buffer.writeN {α : Type} : Buffer α → Nat → List α → Buffer α
  | m, _, [] => m
  | m, a, x :: xs => Buffer.writeN (Buffer.write m a x) (a + 1) xs

/-- The string `xs` placed from address `a` on. -/
def Buffer.ofListFrom {α : Type} : Nat → List α → Buffer α
  | _, [] => []
  | a, x :: xs => (a, x) :: Buffer.ofListFrom (a + 1) xs

/-- The buffer that holds exactly the string `xs` (00_scope R8). -/
def Buffer.ofList {α : Type} (xs : List α) : Buffer α := Buffer.ofListFrom 0 xs

/-- The contents of a buffer in address order. -/
def Buffer.toList {α : Type} (m : Buffer α) : List α := m.map Prod.snd

/-! ## Pixel cache (41_pixel_cache) -/

/-- A 6-bit index as a slot number, 0 to 63 (10_state R24). -/
def slot (i : BitVec 6) : Fin 64 := ⟨i.toNat, i.isLt⟩

/-- `lookup(i)` (41_pixel_cache R132). -/
def lookup (c : Vector Pixel 64) (i : BitVec 6) : Pixel := c.get (slot i)

/-- `store(i, p)`: the one write into the cache array (41_pixel_cache R133). -/
def cacheStore (c : Vector Pixel 64) (i : BitVec 6) (p : Pixel) : Vector Pixel 64 := c.set (slot i).val p (slot i).isLt

/-- `store(i, p)` (41_pixel_cache R133). -/
def store (i : BitVec 6) (p : Pixel) (s : State) : State := { s with cache := cacheStore s.cache i p }

/-- The decoder's refresh `store(hash(prev), prev)` (43_decode R183). -/
def refresh (s : State) : State := store (hash s.cfg.hashCoeffs s.prev) s.prev s

/-! ## Decoder output and position -/

/-- `put(p)`: write the pixel, count it, make it the previous pixel (43_decode R190). -/
def put (p : Pixel) (s : State) : State :=
  { s with pixOut := Buffer.write s.pixOut s.outPos p, outPos := s.outPos + 1, prev := p }

/-- RUN's writes: `count` copies of `prev` from `outPos` on; `prev` unchanged (43_decode R189). -/
def putRun (count : Nat) (s : State) : State :=
  { s with pixOut := Buffer.writeN s.pixOut s.outPos (List.replicate count s.prev), outPos := s.outPos + count }

/-- `inPos <- inPos + L` (10_state R26, 45 R279). -/
def advance (len : Nat) (s : State) : State := { s with inPos := s.inPos + len }

/-! ## Output bytes -/

/-- Append bytes to OUT at offset `|OUT|` (00_scope R9, 20_memory R51). -/
def writeOut (bytes : List Byte) (s : State) : State :=
  { s with outBuf := Buffer.writeN s.outBuf (Buffer.size s.outBuf) bytes }

/-- `emit(bytes)`: append to OUT and to the encoder's `out` (44_encode R230). -/
def emit (bytes : List Byte) (s : State) : State :=
  { s with outBuf := Buffer.writeN s.outBuf (Buffer.size s.outBuf) bytes, out := s.out ++ bytes }

/-- Whether a count stays below 2^POS_WIDTH (93_implementation_defined U14); always, for unbounded naturals. -/
def fitsPosWidth (c : Config) (v : Nat) : Bool :=
  match c.posWidth with
  | none => true
  | some w => decide (v < 2 ^ w)

/-- A transition that appended to OUT: refused where the output length reaches 2^POS_WIDTH (93 U14). That the refusal comes
at that transition, and not at the command's start, is DESIGN CHOICE (log 11). -/
def checkOutLen (s : State) : Result :=
  if fitsPosWidth s.cfg (Buffer.size s.outBuf) then .next s else .refused .posWidthExceeded

/-! ## The end of a transaction -/

/-- The working state is discarded: from here it has no defined value (10_state R35, 93 U3), so every field of it is a
free value (log 7). -/
def discard (s : State) : State :=
  { s with
    prev := Config.freePixel s.draws
    cache := Config.freeCache s.draws
    inPos := Config.freeNat s.draws 0
    outPos := Config.freeNat s.draws 1
    pixPos := Config.freeNat s.draws 2
    run := Config.freeNat s.draws 3
    out := Config.freeBytes s.draws
    latch := Config.freeHeader s.draws
    n := Config.freeNat s.draws 4
    payBase := Config.freeNat s.draws 5
    payLen := Config.freeNat s.draws 6
    draws := s.draws + 1 }

/-- OUT and PIXOUT are no result from here (20_memory R61, 93 U2: "The device may leave any bytes, and no claim may read
them"), so both hold free values (log 8). -/
def loseOutputs (s : State) : State :=
  { s with
    outBuf := Buffer.ofList (Config.freeOut s.draws)
    pixOut := Buffer.ofList (Config.freePixOut s.draws) }

/-- `raise Err(code)`, the abort of 60_exceptions R312: `err` and `phase` are set, the working state is discarded,
OUT and PIXOUT are no result, and control returns to the host. `outLen` and `hdr` stay without a value (10_state R32). -/
def raise (code : ErrCode) (s : State) : State :=
  { discard (loseOutputs s) with err := code, phase := .error, outLen := none, hdr := none }

/-- The end on `Ok(result)`: the result fields are set, then `phase` (45 R277); the working state is discarded. -/
def complete (len : Option Nat) (h : Option Header) (s : State) : State :=
  { discard s with outLen := len, hdr := h, err := .none, phase := .done }

/-! ## The start of a transaction's engine state -/

/-- The decoder's invocation-start values (10_state R36) for the payload of `len` bytes at `base` of IN and `count`
pixels; nothing of PIXOUT is written yet (log 10). -/
def initDecode (base len count : Nat) (s : State) : State :=
  { s with
    prev := s.cfg.seedPixel
    cache := Vector.replicate 64 Pixel.zero
    inPos := 0
    outPos := 0
    payBase := base
    payLen := len
    n := count
    pixOut := []
    stage := .decode }

/-- The encoder's invocation-start values (10_state R37) for `count` pixels. -/
def initEncode (count : Nat) (s : State) : State :=
  { s with
    prev := s.cfg.seedPixel
    cache := Vector.replicate 64 Pixel.zero
    pixPos := 0
    run := 0
    out := []
    n := count
    stage := .encode }

/-- An output string that nothing has been appended to yet (20_memory R51: filled from offset 0; log 10). -/
def clearOut (s : State) : State := { s with outBuf := [] }

/-- The file transactions hold the header (10_state R34). -/
def setLatch (h : Header) (s : State) : State := { s with latch := h }

/-! ## The checks of 45_file_and_commands -/

/-- `capacity_check(n)` fails: `n > MAX_PIXELS` (45 R274). -/
def overCapacity (c : Config) (count : Nat) : Bool :=
  match c.maxPixels with
  | none => false
  | some m => decide (m < count)

/-- `end_marker_check(T)` returns (45 R273). Under EITHER with a wrong marker it is the draw `Config.freeBool` (log 6). -/
def markerAccepted (t : List Byte) (s : State) : Bool :=
  if t = s.cfg.endMarker then true
  else
    match s.cfg.endMarkerCheck with
    | .ignore => true
    | .enforce => false
    | .either => Config.freeBool s.draws

/-- The draw of `end_marker_check`, where one is taken, uses up a free index. -/
def afterMarkerCheck (t : List Byte) (s : State) : State :=
  if t = s.cfg.endMarker then s
  else
    match s.cfg.endMarkerCheck with
    | .ignore => s
    | .enforce => s
    | .either => { s with draws := s.draws + 1 }

end Sys2Proof.Machine
end

