-- ==== Sys2Proof/Machine/Header.lean ====
section
/-!
DEFINITION. The header serializer and deserializer (42_header R150, R151; layout 30_encoding R92).
-/

namespace Sys2Proof.Machine

/-- ASCII "qoif" (30_encoding R92). -/
def magic : List Byte := [0x71, 0x6F, 0x69, 0x66]

/-- The header's length in bytes (00_scope R5). -/
def headerLen : Nat := 14

/-- `channels ∈ {3, 4}` (42_header R150). -/
def legalChannels (c : Byte) : Bool := decide (c = 3) || decide (c = 4)

/-- `colorSpace ∈ {0, 1}` (42_header R150). -/
def legalColorSpace (c : Byte) : Bool := decide (c = 0) || decide (c = 1)

/-- `HDR_ENC`: 14 bytes, or the first failing check, channels before color space (42_header R150). -/
def headerEncode (h : Header) : Except ErrCode (List Byte) :=
  if !legalChannels h.channels then .error .hdrChannels
  else if !legalColorSpace h.colorSpace then .error .hdrColorSpace
  else .ok (magic ++ be32 h.width ++ be32 h.height ++ [h.channels] ++ [h.colorSpace])

/-- `HDR_DEC` of a byte string of any length: length, magic, channels, color space, in this order (42_header R151). -/
def headerDecode : List Byte → Except ErrCode Header
  | [m0, m1, m2, m3, w0, w1, w2, w3, h0, h1, h2, h3, c, cs] =>
    if [m0, m1, m2, m3] ≠ magic then .error .hdrMagic
    else if !legalChannels c then .error .hdrChannels
    else if !legalColorSpace cs then .error .hdrColorSpace
    else .ok ⟨unbe32 w0 w1 w2 w3, unbe32 h0 h1 h2 h3, c, cs⟩
  | _ => .error .hdrLength

end Sys2Proof.Machine
end

