-- ==== Sys2Proof/Machine/Commands.lean ====
section
/-!
DEFINITION. The transactions' checks, initialisation and ends (45_file_and_commands R271 to R277), in the check order of
60_exceptions R315.
-/

namespace Sys2Proof.Machine

/-- `MemRead(IN, a, n)` and what follows it. -/
def readIn (a len : Nat) (s : State) (k : List Byte → Result) : Result :=
  match Buffer.readN s.inBuf a len with
  | none => .fault .memReadOutside
  | some bytes => k bytes

/-- The decode machine starts on a payload of IN (43_decode R180), unless the instance's counters cannot hold it (93 U14).
That this refusal comes after all checks of the command and before the decode steps is DESIGN CHOICE (log 11). -/
def startDecode (base len count : Nat) (s : State) : Result :=
  if fitsPosWidth s.cfg len && fitsPosWidth s.cfg count then .next (initDecode base len count s)
  else .refused .posWidthExceeded

/-- The encode machine starts on `count` pixels of PIXIN (44_encode R230), unless the instance's counters cannot hold them
or what is already in OUT (93 U14). That this refusal comes after all checks of the command is DESIGN CHOICE (log 11). -/
def startEncode (count : Nat) (s : State) : Result :=
  if fitsPosWidth s.cfg count then checkOutLen (initEncode count s) else .refused .posWidthExceeded

/-- `HDR_ENC` as a command: one step, 14 bytes in OUT (42_header R150, 45 R276). That the header's checks come before the
POS_WIDTH refusal (93 U14) is DESIGN CHOICE (log 11). -/
def runHdrEnc (h : Header) (s : State) : Result :=
  match headerEncode h with
  | .error e => .next (raise e s)
  | .ok bytes =>
    if fitsPosWidth s.cfg bytes.length then .next (complete (some bytes.length) none (writeOut bytes (clearOut s)))
    else .refused .posWidthExceeded

/-- `HDR_DEC` as a command: one step, the tuple in `hdr` (42_header R151, 45 R276). -/
def runHdrDec (s : State) : Result :=
  if Buffer.size s.inBuf ≠ headerLen then .next (raise .hdrLength s)
  else readIn 0 headerLen s fun bytes =>
    match headerDecode bytes with
    | .error e => .next (raise e s)
    | .ok h => .next (complete none (some h) s)

/-- The start of `ENCODE`: the capacity check, then the initial values (45 R274, 44_encode R230). -/
def startEncodeCmd (s : State) : Result :=
  if overCapacity s.cfg (Buffer.size s.pixIn) then .next (raise .capacity s)
  else startEncode (Buffer.size s.pixIn) (clearOut s)

/-- The start of `DECODE`: the capacity check, then the initial values; P is all of IN (45 R274, 43_decode R180). -/
def startDecodeCmd (count : Nat) (s : State) : Result :=
  if overCapacity s.cfg count then .next (raise .capacity s)
  else startDecode 0 (Buffer.size s.inBuf) count s

/-- The start of `FILE_ENC`: shape, header, capacity; then the header in OUT and the encode machine's initial values
(45 R271). That ENC_SHAPE and the header's errors come before the POS_WIDTH refusal is DESIGN CHOICE (log 11). -/
def startFileEnc (h : Header) (s : State) : Result :=
  if Buffer.size s.pixIn ≠ pixelCount h then .next (raise .encShape s)
  else
    match headerEncode h with
    | .error e => .next (raise e s)
    | .ok bytes =>
      if overCapacity s.cfg (pixelCount h) then .next (raise .capacity s)
      else startEncode (pixelCount h) (writeOut bytes (clearOut (setLatch h s)))

/-- FILE_DEC after its header: room for the marker, capacity, the marker; then the decode machine's initial values on the
bytes between header and marker (45 R272). The spec does not rank the POS_WIDTH refusal (93 U14) against these checks: that
FILE_SHORT, CAPACITY and END_MARKER are reported first, and a file too wide for the counters is refused only after its
marker is accepted, is DESIGN CHOICE (log 11). -/
def startFileDecBody (h : Header) (s : State) : Result :=
  if Buffer.size s.inBuf < headerLen + s.cfg.markerLen then .next (raise .fileShort s)
  else if overCapacity s.cfg (pixelCount h) then .next (raise .capacity s)
  else readIn (Buffer.size s.inBuf - s.cfg.markerLen) s.cfg.markerLen s fun t =>
    if markerAccepted t s then
      startDecode headerLen (Buffer.size s.inBuf - s.cfg.markerLen - headerLen) (pixelCount h)
        (setLatch h (afterMarkerCheck t s))
    else .next (raise .endMarker (afterMarkerCheck t s))

/-- The start of `FILE_DEC`: length, header, and what follows (45 R272). -/
def startFileDec (s : State) : Result :=
  if Buffer.size s.inBuf < headerLen then .next (raise .hdrLength s)
  else readIn 0 headerLen s fun bytes =>
    match headerDecode bytes with
    | .error e => .next (raise e s)
    | .ok h => startFileDecBody h s

/-- A command's first transition: its checks, and either its end or the initial values of its engine state. -/
def startCommand (c : Command) (s : State) : Result :=
  match c with
  | .hdrEnc h => runHdrEnc h s
  | .hdrDec => runHdrDec s
  | .encode => startEncodeCmd s
  | .decode count => startDecodeCmd count s
  | .fileEnc h => startFileEnc h s
  | .fileDec => startFileDec s

/-- The end of an encode loop: `Ok(out)` (44_encode R230); a file also gets END_MARKER (45 R271). `outLen` is the number
of bytes in OUT (10_state R32). The POS_WIDTH refusal (93 U14) for END_MARKER's bytes stands here by DESIGN CHOICE (log 11). -/
def finishEncode (c : Command) (s : State) : Result :=
  match c with
  | .fileEnc _ =>
    if fitsPosWidth s.cfg (Buffer.size s.outBuf + s.cfg.markerLen) then
      .next (complete (some (Buffer.size s.outBuf + s.cfg.markerLen)) none (writeOut s.cfg.endMarker s))
    else .refused .posWidthExceeded
  | _ => .next (complete (some (Buffer.size s.outBuf)) none s)

/-- The end of a decode loop: every payload byte must have been consumed (43_decode R180, R181); FILE_DEC also gives
the header (45 R272). -/
def finishDecode (c : Command) (s : State) : Result :=
  if s.inPos ≠ s.payLen then .next (raise .trailing s)
  else
    match c with
    | .fileDec => .next (complete none (some s.latch) s)
    | _ => .next (complete none none s)

end Sys2Proof.Machine
end

