-- ==== Sys2Proof/Machine/Chunks.lean ====
section
/-!
DEFINITION. The meanings of the six chunks, one each (43_decode R184 to R189). The refresh and the length checks of
R182 come before them, in `decodeStep`.
-/

namespace Sys2Proof.Machine

/-- INDEX: `p = lookup(i); put(p); inPos <- inPos + 1` (43_decode R184). -/
def execIndex (i : BitVec 6) (s : State) : Result :=
  .next (advance 1 (put (lookup s.cache i) s))

/-- DIFF: `p = padd(prev, dR, dG, dB); put(p); inPos <- inPos + 1` (43_decode R185). -/
def execDiff (dr dg db : Int) (s : State) : Result :=
  .next (advance 1 (put (padd s.prev dr dg db) s))

/-- LUMA: `dR = dG + dRG`, `dB = dG + dBG`; `p = padd(prev, dR, dG, dB); put(p); inPos <- inPos + 2` (43_decode R186). -/
def execLuma (dg drg dbg : Int) (s : State) : Result :=
  .next (advance 2 (put (padd s.prev (dg + drg) dg (dg + dbg)) s))

/-- RUN: ERR_RUN_OVERFLOW where the run would pass pixel `n`, else `count` copies of `prev`; `inPos <- inPos + 1`
(43_decode R189). -/
def execRun (count : Nat) (s : State) : Result :=
  if s.n < s.outPos + count then .next (raise .runOverflow s)
  else .next (advance 1 (putRun count s))

/-- RGB: `p = (r, g, b, prev.a); put(p); inPos <- inPos + 4` (43_decode R187). -/
def execRgb (r g b : Byte) (s : State) : Result :=
  .next (advance 4 (put ⟨r, g, b, s.prev.a⟩ s))

/-- RGBA: `p = (r, g, b, a); put(p); inPos <- inPos + 5` (43_decode R188). -/
def execRgba (r g b a : Byte) (s : State) : Result :=
  .next (advance 5 (put ⟨r, g, b, a⟩ s))

end Sys2Proof.Machine
end

