-- ==== Sys2Proof/WellFormed.lean ====
section
/-!
DEFINITION. Which instruction terms have an encoding: the operand ranges of 30_encoding R88, R91 and R97
("An operand outside its range is refused by the assembler and has no encoding").
-/

namespace Sys2Proof

/-- A DIFF operand, −2..1 (30_encoding R88). -/
abbrev DiffOperandOk (d : Int) : Prop := -2 ≤ d ∧ d ≤ 1

/-- LUMA's green operand, −32..31 (30_encoding R88). -/
abbrev LumaGreenOk (d : Int) : Prop := -32 ≤ d ∧ d ≤ 31

/-- LUMA's red or blue operand, −8..7 (30_encoding R88). -/
abbrev LumaCrossOk (d : Int) : Prop := -8 ≤ d ∧ d ≤ 7

/-- RUN's count, 1..62 (30_encoding R85). -/
abbrev RunCountOk (c : Nat) : Prop := 1 ≤ c ∧ c ≤ 62

/-- The operands lie in the ranges of 30_encoding R97. An INDEX operand is a 6-bit value and the literal channels are
bytes by type, so those three have no check. -/
abbrev Instr.WellFormed : Instr → Bool
  | .index _ => true
  | .diff dr dg db => decide (DiffOperandOk dr) && decide (DiffOperandOk dg) && decide (DiffOperandOk db)
  | .luma dg drg dbg => decide (LumaGreenOk dg) && decide (LumaCrossOk drg) && decide (LumaCrossOk dbg)
  | .run c => decide (RunCountOk c)
  | .rgb _ _ _ => true
  | .rgba _ _ _ _ => true

end Sys2Proof
end

