-- ==== Sys2Proof/Decode.lean ====
section
/-!
DEFINITION. The opcode stream's encoding (30_encoding): the tag partition, the decoder, total on any bytes and rejecting
by name, and after it the encoder written from the packing functions of R91.
-/

namespace Sys2Proof

/-! ## Tag byte -/

/-- Bits 7:6 of a tag byte (30_encoding R82). -/
def tagBits (b0 : Byte) : BitVec 2 := b0.extractLsb' 6 2

/-- The dispatch of 30_encoding R81, first match wins. -/
def chunkKind (b0 : Byte) : ChunkKind :=
  if b0 = 0xFE then .rgb
  else if b0 = 0xFF then .rgba
  else if tagBits b0 = 0b00 then .index
  else if tagBits b0 = 0b01 then .diff
  else if tagBits b0 = 0b10 then .luma
  else .run

/-- Chunk lengths (30_encoding R80). -/
def ChunkKind.size : ChunkKind → Nat
  | .index => 1
  | .diff => 1
  | .luma => 2
  | .run => 1
  | .rgb => 4
  | .rgba => 5

/-- `len(b0)`: the chunk's length is a function of its tag byte alone (30_encoding R96). -/
def chunkLen (b0 : Byte) : Nat :=
  if b0 = 0xFE then 4
  else if b0 = 0xFF then 5
  else if tagBits b0 = 0b10 then 2
  else 1

/-! ## Field to operand (30_encoding R88): zero-extended field minus its bias -/

/-- A 2-bit field at bit `lo`, biased by 2. -/
def field2 (b : Byte) (lo : Nat) : Int := ((b.extractLsb' lo 2).toNat : Int) - 2

/-- LUMA's 6-bit green field, biased by 32. -/
def greenField (b0 : Byte) : Int := ((b0.extractLsb' 0 6).toNat : Int) - 32

/-- A 4-bit field at bit `lo`, biased by 8. -/
def field4 (b : Byte) (lo : Nat) : Int := ((b.extractLsb' lo 4).toNat : Int) - 8

/-- The 6-bit field of formats F1, `b0[5:0]`. -/
def field6 (b0 : Byte) : BitVec 6 := b0.extractLsb' 0 6

/-! ## The decoder -/

/-- Why bytes hold no whole chunk. Both are the spec's ERR_TRUNCATED (60_exceptions R305). -/
inductive DecodeError where
  /-- There is no tag byte. -/
  | noTagByte
  /-- The tag byte declares a chunk of `kind`, and fewer bytes follow. -/
  | tooShort (kind : ChunkKind)
deriving DecidableEq, Repr

/-- Read one chunk from the front of `bytes`: the instruction and the bytes after it (30_encoding R81 to R88). -/
def decode : List Byte → Except DecodeError (Instr × List Byte)
  | [] => .error .noTagByte
  | b0 :: rest =>
    match chunkKind b0 with
    | .index => .ok (.index (field6 b0), rest)
    | .diff => .ok (.diff (field2 b0 4) (field2 b0 2) (field2 b0 0), rest)
    | .luma =>
      match rest with
      | b1 :: rest' => .ok (.luma (greenField b0) (field4 b1 4) (field4 b1 0), rest')
      | _ => .error (.tooShort .luma)
    | .run => .ok (.run ((field6 b0).toNat + 1), rest)
    | .rgb =>
      match rest with
      | r :: g :: b :: rest' => .ok (.rgb r g b, rest')
      | _ => .error (.tooShort .rgb)
    | .rgba =>
      match rest with
      | r :: g :: b :: a :: rest' => .ok (.rgba r g b a, rest')
      | _ => .error (.tooShort .rgba)

/-! ## The encoder -/

/-- The packing functions of 30_encoding R91. They give an instruction's bytes for the operands of `Instr.WellFormed`;
other operands have no encoding (R97). -/
def encode : Instr → List Byte
  | .index i => [i.setWidth 8]
  | .diff dr dg db =>
    [0x40 ||| (BitVec.ofInt 8 (dr + 2) <<< 4) ||| (BitVec.ofInt 8 (dg + 2) <<< 2) ||| BitVec.ofInt 8 (db + 2)]
  | .luma dg drg dbg =>
    [0x80 ||| BitVec.ofInt 8 (dg + 32), (BitVec.ofInt 8 (drg + 8) <<< 4) ||| BitVec.ofInt 8 (dbg + 8)]
  | .run c => [0xC0 ||| BitVec.ofNat 8 (c - 1)]
  | .rgb r g b => [0xFE, r, g, b]
  | .rgba r g b a => [0xFF, r, g, b, a]

/-- The assembler's answer for one instruction: its bytes, or nothing for an operand outside its range (30_encoding R97). -/
def assembleInstr (i : Instr) : Option (List Byte) :=
  if i.WellFormed then some (encode i) else none

/-! ## The opcode table's numbering of an instruction's bits -/

/-- The longest chunk, five bytes, whose first byte is bits 7..0 of `w`, the next bits 15..8, and so on; bits at and
above `nbits` are 0. -/
def tableBytes (nbits w : Nat) : List Byte :=
  let v := w % 2 ^ nbits
  [BitVec.ofNat 8 v, BitVec.ofNat 8 (v / 2 ^ 8), BitVec.ofNat 8 (v / 2 ^ 16), BitVec.ofNat 8 (v / 2 ^ 24),
    BitVec.ofNat 8 (v / 2 ^ 32)]

/-- The instruction the decoder reads from an instruction word numbered as the opcode table numbers it. -/
def decodeTableWord (nbits w : Nat) : Option Instr :=
  match decode (tableBytes nbits w) with
  | .ok (i, _) => some i
  | .error _ => none

end Sys2Proof
end

