-- ==== Sys2Proof/Machine/Encoder.lean ====
section
/-!
DEFINITION. The encode path: one step per input pixel, the first rule that applies (44_encode R231 to R241).
-/

namespace Sys2Proof.Machine

/-- The chunk of a pixel that is neither a run continuation nor an INDEX hit: DIFF, LUMA, RGB or RGBA, the first that
applies (44_encode R237 to R240). -/
def chooseLiteral (prev p : Pixel) : Instr :=
  let d := pdelta p prev
  if fitsDiff d then .diff d.dR d.dG d.dB
  else if fitsLuma d then .luma d.dG (dRG d) (dBG d)
  else if d.dA = 0 then .rgb p.r p.g p.b
  else .rgba p.r p.g p.b p.a

/-- `emit(pack_RUN(run)); run <- 0` (44_encode R233, R234). -/
def flushRun (s : State) : State := { emit (encode (.run s.run)) s with run := 0 }

/-- Run continuation, and the flush at 62 or at the last pixel (44_encode R232, R233). -/
def continueRun (s : State) : State :=
  if s.run + 1 = 62 ∨ s.pixPos + 1 = s.n then flushRun { s with run := s.run + 1 }
  else { s with run := s.run + 1 }

/-- An open run is flushed before a differing pixel's own chunk (44_encode R234). -/
def flushOpenRun (s : State) : State := if 0 < s.run then flushRun s else s

/-- A differing pixel: INDEX on a hit, else the cache store and the pixel's literal or delta chunk; then `prev <- p`
(44_encode R235 to R241). -/
def encodeNew (p : Pixel) (s : State) : State :=
  if lookup s.cache (hash s.cfg.hashCoeffs p) = p then
    { emit (encode (.index (hash s.cfg.hashCoeffs p))) s with prev := p }
  else
    { emit (encode (chooseLiteral s.prev p)) (store (hash s.cfg.hashCoeffs p) p s) with prev := p }

/-- The state after the pixel `p` at `pixPos` is processed (44_encode R231). -/
def encodePixel (p : Pixel) (s : State) : State :=
  let t := if p = s.prev then continueRun s else encodeNew p (flushOpenRun s)
  { t with pixPos := s.pixPos + 1 }

/-- `encode_step()`: read PIXIN at `pixPos` and process the pixel (44_encode R231). -/
def encodeStep (s : State) : Result :=
  match Buffer.read s.pixIn s.pixPos with
  | none => .fault .pixReadOutside
  | some p => checkOutLen (encodePixel p s)

end Sys2Proof.Machine
end

