-- ==== Sys2Proof/Machine/Engine.lean ====
section
/-!
DEFINITION. The engine's transitions: fetching and running one chunk (43_decode R182), and which transition a running
transaction takes next (43_decode R180, 44_encode R230).
-/

namespace Sys2Proof.Machine

/-- The bytes of the chunk at `inPos`: `MemRead(IN, inPos, len(b0))`, only where the whole chunk lies in the payload
(43_decode R182). -/
def fetchChunk (s : State) : Option (List Byte) :=
  if s.payLen ≤ s.inPos then none
  else
    match Buffer.read s.inBuf (s.payBase + s.inPos) with
    | none => none
    | some b0 =>
      if s.payLen < s.inPos + chunkLen b0 then none
      else Buffer.readN s.inBuf (s.payBase + s.inPos) (chunkLen b0)

/-- Whether the payload holds no whole chunk at `inPos`: no tag byte is left, or the tag byte declares more bytes than
remain (60_exceptions R305). -/
def chunkMissing (s : State) : Bool :=
  decide (s.payLen ≤ s.inPos) ||
    match Buffer.read s.inBuf (s.payBase + s.inPos) with
    | none => false
    | some b0 => decide (s.payLen < s.inPos + chunkLen b0)

/-- `decode_step()`: refresh, length checks, fetch, dispatch (43_decode R182). The length checks come before any write
but the refresh. -/
def decodeStep (s : State) : Result :=
  if chunkMissing s then .next (raise .truncated (refresh s))
  else
    match fetchChunk s with
    | none => .fault .memReadOutside
    | some c =>
      match decode c with
      | .error _ => .next (raise .truncated (refresh s))
      | .ok (i, _) => exec i (refresh s)

/-- One transition of a running transaction: its start, one step of its loop, or its end. -/
def engineStep (s : State) : Result :=
  match s.cmd, s.stage with
  | none, _ => .fault .noTransaction
  | some c, .start => startCommand c s
  | some c, .encode => if s.pixPos < s.n then encodeStep s else finishEncode c s
  | some c, .decode => if s.outPos < s.n then decodeStep s else finishDecode c s

/-- The engine's turn: a transition of the running transaction; nothing while no transaction runs (60_exceptions R326:
no step runs in IDLE; log 4). -/
def engineTurn (s : State) : Result := if s.phase = .busy then engineStep s else .next s

end Sys2Proof.Machine
end

