-- ==== Sys2Proof/Machine/HostMoves.lean ====
section
/-!
DEFINITION. What the host may do, and what is refused (45 R277, 70_reset R340, R343, R346; 93 U1, U2, U4, U5).
-/

namespace Sys2Proof.Machine

/-- Command issue (45 R277): BUSY, `err` 0, the result fields unspecified. -/
def issueCommand (c : Command) (s : State) : State :=
  { s with phase := .busy, err := .none, outLen := none, hdr := none, cmd := some c, stage := .start }

/-- Issue a command, only while none runs (45 R277). -/
def hostIssue (c : Command) (s : State) : Result :=
  if s.phase = .busy then .refused .issueWhileBusy else .next (issueCommand c s)

/-- Fill IN with a byte string, only while no transaction runs (20_memory R62, 70_reset R343). -/
def hostWriteIn (bytes : List Byte) (s : State) : Result :=
  if s.phase = .busy then .refused .inputWriteWhileBusy else .next { s with inBuf := Buffer.ofList bytes }

/-- Fill PIXIN with pixels, only while no transaction runs (20_memory R62, 70_reset R343). -/
def hostWritePixIn (pixels : List Pixel) (s : State) : Result :=
  if s.phase = .busy then .refused .inputWriteWhileBusy else .next { s with pixIn := Buffer.ofList pixels }

/-- What a reset during BUSY leaves in OUT and PIXOUT is no result (70_reset R340, 93 U2); at any other time the buffers
are as before (log 8). -/
def resetOutputs (s : State) : State := if s.phase = .busy then loseOutputs s else s

/-- Block reset, enabled in every state (70_reset R340). IN, PIXIN and the parameters are not written. -/
def blockReset (s : State) : State :=
  { discard (resetOutputs s) with
    phase := .idle, err := .none, outLen := none, hdr := none, cmd := none, stage := .start }

/-- `phase`, readable at any time (70_reset R346). -/
def readPhase (s : State) : BitVec 3 := s.phase.code

/-- `err`, readable at any time (70_reset R346). -/
def readErr (s : State) : BitVec 4 := s.err.code

/-- `outLen`, where it is defined (10_state R32). -/
def readOutLen (s : State) : Except Refusal Nat :=
  match s.phase, s.outLen with
  | .done, some len => .ok len
  | _, _ => .error .outLenUnspecified

/-- `hdr`, where it is defined (10_state R32). -/
def readHdr (s : State) : Except Refusal Header :=
  match s.phase, s.hdr with
  | .done, some h => .ok h
  | _, _ => .error .hdrUnspecified

/-- OUT as a result: its first `outLen` bytes, only when DONE after a command that wrote it (20_memory R61, R62; log 13). -/
def readOut (s : State) : Except Refusal (List Byte) :=
  match s.phase, s.outLen with
  | .busy, _ => .error .outputReadWhileBusy
  | .done, some len =>
    match Buffer.readN s.outBuf 0 len with
    | some bytes => .ok bytes
    | none => .error .outputNotAResult
  | _, _ => .error .outputNotAResult

/-- How many pixels of PIXOUT are a result: `n` of the DECODE command, `width × height` of FILE_DEC's header (45 R276). -/
def resultPixels (s : State) : Option Nat :=
  match s.cmd with
  | some (.decode count) => some count
  | some .fileDec => s.hdr.map pixelCount
  | _ => none

/-- PIXOUT as a result: its `n` pixels, only when DONE after a command that wrote it (20_memory R61, R62; log 13). -/
def readPixOut (s : State) : Except Refusal (List Pixel) :=
  match s.phase, resultPixels s with
  | .busy, _ => .error .outputReadWhileBusy
  | .done, some count =>
    match Buffer.readN s.pixOut 0 count with
    | some pixels => .ok pixels
    | none => .error .outputNotAResult
  | _, _ => .error .outputNotAResult

/-- PIXOUT as a result, seen as bytes: R, G, B, A for each pixel (10_state R22, 20_memory R55). -/
def readPixOutBytes (s : State) : Except Refusal (List Byte) :=
  match readPixOut s with
  | .ok pixels => .ok (pixels.flatMap pixelBytes)
  | .error r => .error r

/-- A read leaves the state as it is, or is refused. -/
def observe {α : Type} (answer : Except Refusal α) (s : State) : Result :=
  match answer with
  | .ok _ => .next s
  | .error r => .refused r

/-- One move of the host (70_reset R346). -/
def hostMove (m : HostMove) (s : State) : Result :=
  match m with
  | .issue c => hostIssue c s
  | .writeIn bytes => hostWriteIn bytes s
  | .writePixIn pixels => hostWritePixIn pixels s
  | .reset => .next (blockReset s)
  | .readPhase => .next s
  | .readErr => .next s
  | .readOutLen => observe (readOutLen s) s
  | .readHdr => observe (readHdr s) s
  | .readOut => observe (readOut s) s
  | .readPixOut => observe (readPixOut s) s

end Sys2Proof.Machine
end

