-- ==== Sys2Proof/Machine/Step.lean ====
section
/-! DEFINITION. One step: the next planned turn, the engine's or the host's (10_state R20; log 3). -/

namespace Sys2Proof.Machine

/-- One step of the block and its host. With no turn planned it is the engine's turn. -/
def step (s : State) : Host.Outcome State Fault Refusal :=
  match s.turns with
  | [] => engineTurn s
  | .engine :: rest => engineTurn { s with turns := rest }
  | .host m :: rest => hostMove m { s with turns := rest }

/-- `s` in the middle of a DECODE whose payload is the instruction word, so that the next step fetches and runs it. It
stands for the host's moves that lead there: fill IN, issue DECODE, and the transaction's start (log 14). The previous
pixel, the cache and the pixels already written stay; the pixel count leaves room for the longest RUN. -/
def State.withFetchWord (s : State) (nbits w : Nat) : State :=
  { s with
    turns := []
    phase := .busy
    err := .none
    outLen := none
    hdr := none
    cmd := some (.decode (s.outPos + 62))
    stage := .decode
    inBuf := Buffer.ofList (tableBytes nbits w)
    payBase := 0
    payLen := 5
    inPos := 0
    n := s.outPos + 62 }

end Sys2Proof.Machine
end

