-- ==== Sys2Proof/Machine/Assembler.lean ====
section
/-!
DEFINITION. The assembler form (30_encoding R97, R98): the bytes of a list of items, and an instruction's text.
-/

namespace Sys2Proof.Machine

/-- The bytes of one item: a header needs legal channels and color space, a chunk operands in range (30_encoding R97, R98). -/
def assembleItem (c : Config) : Item → Option (List Byte)
  | .hdr h =>
    match headerEncode h with
    | .ok bytes => some bytes
    | .error _ => none
  | .chunk i => assembleInstr i
  | .fin => some c.endMarker

/-- The bytes of a text, refused as a whole where one item is. -/
def assemble (c : Config) : List Item → Option (List Byte)
  | [] => some []
  | x :: xs =>
    match assembleItem c x, assemble c xs with
    | some bs, some rest => some (bs ++ rest)
    | _, _ => none

/-- The items after a file's header: chunks, then END (30_encoding R98). -/
def isFileBody : List Item → Bool
  | [.fin] => true
  | .chunk _ :: rest => isFileBody rest
  | _ => false

/-- A file in the assembler form: HDR, then chunks, then END (30_encoding R98). -/
def isFile : List Item → Bool
  | .hdr _ :: rest => isFileBody rest
  | _ => false

/-- The mnemonic of a chunk (30_encoding R97). -/
def mnemonic : ChunkKind → String
  | .index => "INDEX"
  | .diff => "DIFF"
  | .luma => "LUMA"
  | .run => "RUN"
  | .rgb => "RGB"
  | .rgba => "RGBA"

/-- The operands of a chunk in the order of 30_encoding R97. -/
def operands : Instr → List Int
  | .index i => [i.toNat]
  | .diff dr dg db => [dr, dg, db]
  | .luma dg drg dbg => [dg, drg, dbg]
  | .run c => [c]
  | .rgb r g b => [r.toNat, g.toNat, b.toNat]
  | .rgba r g b a => [r.toNat, g.toNat, b.toNat, a.toNat]

/-- An instruction's text, operands in decimal (30_encoding R97). -/
def instrText (i : Instr) : String :=
  mnemonic i.kind ++ " " ++ ", ".intercalate ((operands i).map toString)

end Sys2Proof.Machine
end

