-- ==== Sys2Proof/Safety.lean ====
section
/-!
DEFINITION. What counts as a good state, when two states cannot be told apart, and runs of several steps: the terms
the statements use.
-/

namespace Sys2Proof.Machine

/-! ## Runs -/

/-- `k` steps, stopping at the first fault or refusal. -/
def runFor : Nat → State → Result
  | 0, s => .next s
  | k + 1, s =>
    match step s with
    | .next t => runFor k t
    | .fault f => .fault f
    | .refused r => .refused r

/-- The engine moves next: no host move is planned before it. -/
def EngineMoves (s : State) : Prop := s.turns = [] ∨ ∃ rest, s.turns = .engine :: rest

/-- The turns left after the next step. -/
def restTurns (s : State) : List Turn := s.turns.tail

/-- A transaction runs, in the given part of its pseudocode, and the engine moves next. -/
structure Running (st : Stage) (s : State) : Prop where
  busy : s.phase = .busy
  stage : s.stage = st
  command : s.cmd ≠ none
  moves : EngineMoves s

/-- The command `c` was issued, its first transition comes next, and the engine makes it. -/
structure Issued (c : Command) (s : State) : Prop where
  busy : s.phase = .busy
  stage : s.stage = .start
  command : s.cmd = some c
  moves : EngineMoves s

/-- The state with the turn of the next step taken off the plan. -/
def afterTurn (s : State) : State := { s with turns := restTurns s }

/-! ## The invariant of the block -/

/-- A decode loop's counters stay inside the payload and the image, and PIXOUT holds exactly the pixels written so far
(10_state R26, R27; 20_memory R53). -/
structure DecodeOk (s : State) : Prop where
  inPos_le : s.inPos ≤ s.payLen
  outPos_le : s.outPos ≤ s.n
  payload_in : s.payBase + s.payLen ≤ s.inBuf.length
  written : s.pixOut.length = s.outPos
  command : s.cmd = some (.decode s.n) ∨ s.cmd = some .fileDec ∧ s.n = pixelCount s.latch

/-- An encode loop's counters: `run` is in [0, 61] between steps and 0 at the end (10_state R29), `pixPos` stays inside
PIXIN (R30). -/
structure EncodeOk (s : State) : Prop where
  count : s.n = s.pixIn.length
  pixPos_le : s.pixPos ≤ s.n
  run_le : s.run ≤ 61
  run_end : s.pixPos = s.n → s.run = 0
  command : s.cmd = some .encode ∨ ∃ h, s.cmd = some (.fileEnc h)

/-- The invariant: buffers are strings in canonical form, the status record is as 10_state R32 says, and a running
transaction's counters are in range. -/
structure Inv (s : State) : Prop where
  in_dense : Buffer.Dense s.inBuf
  out_dense : Buffer.Dense s.outBuf
  pixIn_dense : Buffer.Dense s.pixIn
  pixOut_dense : Buffer.Dense s.pixOut
  err_iff : s.err = .none ↔ s.phase ≠ .error
  unspecified : s.phase ≠ .done → s.outLen = none ∧ s.hdr = none
  has_command : s.phase = .busy → s.cmd ≠ none
  decoding : s.phase = .busy → s.stage = .decode → DecodeOk s
  encoding : s.phase = .busy → s.stage = .encode → EncodeOk s
  out_result : s.phase = .done → ∀ len, s.outLen = some len → s.outBuf.length = len
  pixOut_result : s.phase = .done → ∀ count, resultPixels s = some count → s.pixOut.length = count

/-! ## What one chunk may change -/

/-- Everything but `prev`, `inPos`, `outPos` and PIXOUT is as before: what a chunk that completes leaves alone
(43_decode R184 to R189, "State written"). -/
structure ChunkFrame (s t : State) : Prop where
  cfg : t.cfg = s.cfg
  phase : t.phase = s.phase
  err : t.err = s.err
  outLen : t.outLen = s.outLen
  hdr : t.hdr = s.hdr
  inBuf : t.inBuf = s.inBuf
  outBuf : t.outBuf = s.outBuf
  pixIn : t.pixIn = s.pixIn
  cache : t.cache = s.cache
  pixPos : t.pixPos = s.pixPos
  run : t.run = s.run
  out : t.out = s.out
  latch : t.latch = s.latch
  n : t.n = s.n
  payBase : t.payBase = s.payBase
  payLen : t.payLen = s.payLen
  cmd : t.cmd = s.cmd
  stage : t.stage = s.stage
  draws : t.draws = s.draws
  turns : t.turns = s.turns

/-- One pixel is put by a chunk of `len` bytes and nothing else changes: the pixel stands at index `outPos` of PIXOUT and
becomes `prev`, both counters move on, every other pixel of PIXOUT reads as before (43_decode R184 to R188, R190). -/
structure PutsOne (p : Pixel) (len : Nat) (s t : State) : Prop where
  prev : t.prev = p
  outPos : t.outPos = s.outPos + 1
  inPos : t.inPos = s.inPos + len
  written : Buffer.read t.pixOut s.outPos = some p
  others : ∀ a, a ≠ s.outPos → Buffer.read t.pixOut a = Buffer.read s.pixOut a
  frame : ChunkFrame s t

/-- How many pixels a chunk writes (10_state R27). -/
def pixelsWritten : Instr → Nat
  | .index _ => 1
  | .diff _ _ _ => 1
  | .luma _ _ _ => 1
  | .run c => c
  | .rgb _ _ _ => 1
  | .rgba _ _ _ _ => 1

/-- Everything but `prev`, `cache`, `pixPos`, `run`, `out` and OUT is as before: what an encode step leaves alone
(44_encode R232 to R241, "State written"). -/
structure PixelFrame (s t : State) : Prop where
  cfg : t.cfg = s.cfg
  phase : t.phase = s.phase
  err : t.err = s.err
  outLen : t.outLen = s.outLen
  hdr : t.hdr = s.hdr
  inBuf : t.inBuf = s.inBuf
  pixIn : t.pixIn = s.pixIn
  pixOut : t.pixOut = s.pixOut
  inPos : t.inPos = s.inPos
  outPos : t.outPos = s.outPos
  latch : t.latch = s.latch
  n : t.n = s.n
  payBase : t.payBase = s.payBase
  payLen : t.payLen = s.payLen
  cmd : t.cmd = s.cmd
  stage : t.stage = s.stage
  draws : t.draws = s.draws
  turns : t.turns = s.turns

/-- Exactly `bytes` were appended, to the encoder's `out` and to OUT (44_encode R230). -/
structure Appends (bytes : List Byte) (s t : State) : Prop where
  out : t.out = s.out ++ bytes
  outBuf : t.outBuf = Buffer.ofList (Buffer.toList s.outBuf ++ bytes)

/-- The RUN chunk a differing pixel flushes first, if a run is open (44_encode R234). -/
def flushBytes (s : State) : List Byte := if 0 < s.run then encode (.run s.run) else []

/-- The chunk of a differing pixel: INDEX on a cache hit, else the literal or delta chunk (44_encode R235 to R240). -/
def pixelChunk (p : Pixel) (s : State) : Instr :=
  if lookup s.cache (hash s.cfg.hashCoeffs p) = p then .index (hash s.cfg.hashCoeffs p) else chooseLiteral s.prev p

/-- What an aborted transaction leaves: the code, the phase, nothing to read, and the inputs and parameters as before
(60_exceptions R312). -/
structure Aborted (code : ErrCode) (s t : State) : Prop where
  phase : t.phase = .error
  err : t.err = code
  outLen : t.outLen = none
  hdr : t.hdr = none
  cfg : t.cfg = s.cfg
  inBuf : t.inBuf = s.inBuf
  pixIn : t.pixIn = s.pixIn
  cmd : t.cmd = s.cmd
  turns : t.turns = s.turns

/-- What a finished transaction leaves: DONE, no error, the inputs and parameters as before, and these result fields
(45 R277). -/
structure Completed (len : Option Nat) (h : Option Header) (s t : State) : Prop where
  phase : t.phase = .done
  err : t.err = .none
  outLen : t.outLen = len
  hdr : t.hdr = h
  cfg : t.cfg = s.cfg
  inBuf : t.inBuf = s.inBuf
  pixIn : t.pixIn = s.pixIn
  cmd : t.cmd = s.cmd
  turns : t.turns = s.turns

/-! ## What cannot be told apart -/

/-- The states agree on everything but the working state. -/
structure SamePublic (s t : State) : Prop where
  cfg : t.cfg = s.cfg
  phase : t.phase = s.phase
  err : t.err = s.err
  outLen : t.outLen = s.outLen
  hdr : t.hdr = s.hdr
  inBuf : t.inBuf = s.inBuf
  outBuf : t.outBuf = s.outBuf
  pixIn : t.pixIn = s.pixIn
  pixOut : t.pixOut = s.pixOut
  cmd : t.cmd = s.cmd
  stage : t.stage = s.stage
  draws : t.draws = s.draws
  turns : t.turns = s.turns

/-- The states agree on the decoder's working state (10_state R25), and on the header latch of a FILE_DEC. -/
structure SameDecoder (s t : State) : Prop where
  prev : t.prev = s.prev
  cache : t.cache = s.cache
  inPos : t.inPos = s.inPos
  outPos : t.outPos = s.outPos
  n : t.n = s.n
  payBase : t.payBase = s.payBase
  payLen : t.payLen = s.payLen
  latch : s.cmd = some .fileDec → t.latch = s.latch

/-- The states agree on the encoder's working state (10_state R28). -/
structure SameEncoder (s t : State) : Prop where
  prev : t.prev = s.prev
  cache : t.cache = s.cache
  pixPos : t.pixPos = s.pixPos
  run : t.run = s.run
  out : t.out = s.out
  n : t.n = s.n

/-- The states differ at most in working state that no rule may read: that of no transaction, or of another kind of
transaction (10_state R35). -/
structure Indistinguishable (s t : State) : Prop where
  same : SamePublic s t
  decoder : s.phase = .busy → s.stage = .decode → SameDecoder s t
  encoder : s.phase = .busy → s.stage = .encode → SameEncoder s t

/-- Two outcomes agree: next states that cannot be told apart, or the same stop. -/
def SameOutcome : Result → Result → Prop
  | .next s, .next t => Indistinguishable s t
  | .fault f, .fault g => f = g
  | .refused q, .refused r => q = r
  | _, _ => False

/-! ## The round trip's premise -/

/-- The seed condition of 44_encode R244 and 41_pixel_cache R138. -/
def SeedOk (c : Config) : Prop := c.seedPixel = Pixel.zero ∨ hash c.hashCoeffs c.seedPixel ≠ 0

end Sys2Proof.Machine
end

