-- ==== Sys2Proof/Certificates/Slice0/Obligations.lean ====
section
/-!
DEFINITION. The statements for the provers. Each docstring names the rule it formalises. Where a rule rests on a
decision of the spec's own (D<n> of 92_eei_decisions) or on a convention of the model (log <n>), the docstring says so.
Every statement about a state holds for every instance parameter, since the state carries them (log 2).
-/

open Sys2Proof Sys2Proof.Machine

/-! ## Encoding -/

/-- 30_encoding R88, R91, R97: packing and reading the fields are inverse over the operand ranges, with anything after the
chunk (R91 rests on D14 for DIFF's bit positions, R86 and R87 on D15 for the channel order). -/
def Obligations.DecodeOfEncodeIsSame : Prop :=
  ∀ (i : Instr) (rest : List Byte), i.WellFormed = true → decode (encode i ++ rest) = .ok (i, rest)

/-- 30_encoding R89, R91 (with D14 for DIFF's bit positions and D15 for the channel order, log 16): every chunk has one
meaning, its operands are in range, and packing gives its bytes back. -/
def Obligations.EncodeOfDecodeIsSame : Prop :=
  ∀ (c : List Byte) (i : Instr) (rest : List Byte), decode c = .ok (i, rest) → i.WellFormed = true ∧ encode i ++ rest = c

/-- 30_encoding R89, the byte-value partition (the spec derives it from R81 and R82). -/
def Obligations.TagByteSelectsOneKind : Prop :=
  ∀ b0 : Byte, chunkKind b0 =
    if b0.toNat ≤ 0x3F then .index
    else if b0.toNat ≤ 0x7F then .diff
    else if b0.toNat ≤ 0xBF then .luma
    else if b0.toNat ≤ 0xFD then .run
    else if b0.toNat = 0xFE then .rgb
    else .rgba

/-- 30_encoding R80: the tag byte alone fixes the length, by the table of R80; the decoder takes exactly that many bytes,
and rejects by name exactly where fewer are there. -/
def Obligations.DecoderTakesDeclaredLength : Prop :=
  (∀ b0 : Byte, chunkLen b0 =
    match chunkKind b0 with
    | .index => 1
    | .diff => 1
    | .luma => 2
    | .run => 1
    | .rgb => 4
    | .rgba => 5) ∧
  decode [] = .error .noTagByte ∧
    ∀ (b0 : Byte) (bs : List Byte),
      (chunkLen b0 ≤ bs.length + 1 →
        ∃ i, decode (b0 :: bs) = .ok (i, (b0 :: bs).drop (chunkLen b0)) ∧ i.kind = chunkKind b0) ∧
      (bs.length + 1 < chunkLen b0 → decode (b0 :: bs) = .error (.tooShort (chunkKind b0)))

/-- 30_encoding R82 to R89: which byte values are which chunk, and every operand as arithmetic on the byte values, field
minus bias (DIFF's bit positions are the spec's D14, the channel order D15). -/
def Obligations.FieldsAreReadByPosition : Prop :=
  ∀ b0 b1 b2 b3 b4 : Byte,
    (b0.toNat ≤ 0x3F → decode [b0] = .ok (.index (BitVec.ofNat 6 b0.toNat), [])) ∧
    (0x40 ≤ b0.toNat → b0.toNat ≤ 0x7F → decode [b0] = .ok (.diff ((b0.toNat / 16 % 4 : Nat) - 2)
      ((b0.toNat / 4 % 4 : Nat) - 2) ((b0.toNat % 4 : Nat) - 2), [])) ∧
    (0x80 ≤ b0.toNat → b0.toNat ≤ 0xBF → decode [b0, b1] = .ok (.luma ((b0.toNat % 64 : Nat) - 32)
      ((b1.toNat / 16 : Nat) - 8) ((b1.toNat % 16 : Nat) - 8), [])) ∧
    (0xC0 ≤ b0.toNat → b0.toNat ≤ 0xFD → decode [b0] = .ok (.run (b0.toNat - 0xBF), [])) ∧
    decode [0xFE, b1, b2, b3] = .ok (.rgb b1 b2 b3, []) ∧
    decode [0xFF, b1, b2, b3, b4] = .ok (.rgba b1 b2 b3 b4, [])

/-- Chunks written out from the encodings of 30_encoding and taken from 95_test_vectors (INDEX from P2, DIFF and LUMA from P1,
RUN from V-DEC-20, RGB from V-DEC-15, RGBA from V-DEC-17) decode to the instructions they stand for. The DIFF clause rests on
the spec's own choice D14 of the bit positions (R83, general knowledge), the RGB and RGBA clauses on its own choice D15 of the
channel order (R86, R87); both are PRESUMED (log 16). -/
def Obligations.SpecChunksDecode : Prop :=
  decode [0x14] = .ok (.index 20, []) ∧
    decode [0x70] = .ok (.diff 1 (-2) (-2), []) ∧
    decode [0x80, 0xF0] = .ok (.luma (-32) 7 (-8), []) ∧
    decode [0xFD] = .ok (.run 62, []) ∧
    decode [0xFE, 0x0A, 0x14, 0x1E] = .ok (.rgb 10 20 30, []) ∧
    decode [0xFF, 0x0A, 0x14, 0x1E, 0xC8] = .ok (.rgba 10 20 30 200, [])

/-- 30_encoding R97, R98: the assembler's bytes of a file are the header, the chunks in order and END_MARKER (the spec's own
decision D26). -/
def Obligations.AssembledFileIsHeaderChunksMarker : Prop :=
  ∀ (c : Config) (h : Header) (hb : List Byte) (is : List Instr), headerEncode h = .ok hb →
    (∀ i ∈ is, i.WellFormed = true) →
    isFile (.hdr h :: is.map .chunk ++ [.fin]) = true ∧
    assemble c (.hdr h :: is.map .chunk ++ [.fin]) = some (hb ++ (is.map encode).flatten ++ c.endMarker)

/-! ## Delta arithmetic and hash -/

/-- 40_delta_arith R110: `add8(a, d) = (a + d) mod 256`; a sum outside [0,255] wraps. -/
def Obligations.Add8WrapsModulo256 : Prop :=
  ∀ (a : Byte) (d : Int), ((add8 a d).toNat : Int) = ((a.toNat : Int) + d) % 256

/-- 40_delta_arith R112, R116 (a law the spec derives): `delta8` is a signed byte and adding it back gives the channel. -/
def Obligations.AddingDeltaRestoresChannel : Prop :=
  ∀ c p : Byte, -128 ≤ delta8 c p ∧ delta8 c p ≤ 127 ∧ add8 p (delta8 c p) = c

/-- 41_pixel_cache R130 for every HASH_COEFFS (a parameter, D12), and R137: the zero pixel hashes to 0. -/
def Obligations.HashIsLinearModulo64 : Prop :=
  (∀ (k : HashCoeffs) (p : Pixel), (hash k p).toNat =
    (k.kR * p.r.toNat + k.kG * p.g.toNat + k.kB * p.b.toNat + k.kA * p.a.toNat) % 64) ∧
    ∀ k : HashCoeffs, hash k Pixel.zero = 0

/-- 41_pixel_cache R131 (a law the spec derives): reading the channels as signed bytes does not change the hash. -/
def Obligations.HashIgnoresSignedness : Prop :=
  ∀ (k : HashCoeffs) (p : Pixel), ((hash k p).toNat : Int) =
    (k.kR * sext8 p.r + k.kG * sext8 p.g + k.kB * sext8 p.b + k.kA * sext8 p.a) % 64

/-- 41_pixel_cache R133: a store writes slot `i` only; the 63 other slots and everything else are unchanged. -/
def Obligations.StoreWritesOneSlot : Prop :=
  ∀ (i j : BitVec 6) (p : Pixel) (s : State),
    lookup (store i p s).cache j = (if i = j then p else lookup s.cache j) ∧
      { store i p s with cache := s.cache } = s

/-! ## The six chunks -/

/-- 43_decode R184: INDEX names the slot of `b0[5:0]` and puts its pixel; one byte. -/
def Obligations.IndexPutsCachedPixel : Prop :=
  (∀ b0 : Byte, b0.extractLsb' 6 2 = 0b00 → decode [b0] = .ok (.index (b0.extractLsb' 0 6), [])) ∧
    ∀ (i : BitVec 6) (s : State), ∃ t, exec (.index i) s = .next t ∧ PutsOne (lookup s.cache i) 1 s t

/-- 43_decode R185 (its bit positions are the spec's D14): DIFF puts `padd(prev, dR, dG, dB)`; one byte. -/
def Obligations.DiffPutsDeltaPixel : Prop :=
  ∀ (dr dg db : Int) (s : State), ∃ t, exec (.diff dr dg db) s = .next t ∧ PutsOne (padd s.prev dr dg db) 1 s t

/-- 43_decode R186: LUMA reads dG, dR - dG and dB - dG from its two bytes and puts `padd(prev, dR, dG, dB)`, two bytes;
where its tag byte is the last byte of the payload the step aborts with ERR_TRUNCATED. -/
def Obligations.LumaPutsDeltaPixel : Prop :=
  (∀ b0 b1 : Byte, b0.extractLsb' 6 2 = 0b10 → decode [b0, b1] = .ok (.luma (((b0.extractLsb' 0 6).toNat : Int) - 32)
      (((b1.extractLsb' 4 4).toNat : Int) - 8) (((b1.extractLsb' 0 4).toNat : Int) - 8), [])) ∧
    (∀ (dg drg dbg : Int) (s : State), ∃ t, exec (.luma dg drg dbg) s = .next t ∧
      PutsOne (padd s.prev (dg + drg) dg (dg + dbg)) 2 s t) ∧
    ∀ (s : State) (b0 : Byte), Running .decode s → s.outPos < s.n → s.payLen = s.inPos + 1 →
      Buffer.read s.inBuf (s.payBase + s.inPos) = some b0 → b0.extractLsb' 6 2 = 0b10 →
      ∃ t, step s = .next t ∧ Aborted .truncated (afterTurn s) t

/-- 43_decode R187 (its channel order is the spec's D15): RGB puts the three channels with `prev`'s alpha; four bytes. -/
def Obligations.RgbPutsLiteralKeepingAlpha : Prop :=
  ∀ (r g b : Byte) (s : State), ∃ t, exec (.rgb r g b) s = .next t ∧ PutsOne ⟨r, g, b, s.prev.a⟩ 4 s t

/-- 43_decode R188 (its channel order is the spec's D15): RGBA puts the four channels; five bytes. -/
def Obligations.RgbaPutsLiteral : Prop :=
  ∀ (r g b a : Byte) (s : State), ∃ t, exec (.rgba r g b a) s = .next t ∧ PutsOne ⟨r, g, b, a⟩ 5 s t

/-- 43_decode R189: a RUN that fits writes `count` copies of `prev` at PIXOUT[outPos .. outPos+count), leaves every other
pixel and `prev` as they were, and takes one byte. -/
def Obligations.RunRepeatsPrevious : Prop :=
  ∀ (count : Nat) (s : State), s.outPos + count ≤ s.n → ∃ t, exec (.run count) s = .next t ∧
    t.outPos = s.outPos + count ∧ t.inPos = s.inPos + 1 ∧ t.prev = s.prev ∧
    (∀ j, j < count → Buffer.read t.pixOut (s.outPos + j) = some s.prev) ∧
    (∀ a, a < s.outPos ∨ s.outPos + count ≤ a → Buffer.read t.pixOut a = Buffer.read s.pixOut a) ∧
    ChunkFrame s t

/-- 43_decode R189, 60_exceptions R307 (the spec's own decision D7): a RUN that would pass pixel `n` aborts with
ERR_RUN_OVERFLOW. -/
def Obligations.RunPastCountAborts : Prop :=
  ∀ (count : Nat) (s : State), s.n < s.outPos + count → ∃ t, exec (.run count) s = .next t ∧
    Aborted .runOverflow s t

/-- 43_decode R184 to R189, "State written": whatever the chunk, if it does not overflow then PIXOUT reads as before outside
the pixels it writes from `outPos` on, `prev` is the last of them where there is one, and everything but `prev`,
`inPos`, `outPos` and PIXOUT is as before. -/
def Obligations.ChunkLeavesRestUnchanged : Prop :=
  ∀ (i : Instr) (s t : State), (∀ c, i = .run c → s.outPos + c ≤ s.n) → exec i s = .next t →
    ChunkFrame s t ∧ t.inPos = s.inPos + i.kind.size ∧ t.outPos = s.outPos + pixelsWritten i ∧
    (∀ a, a < s.outPos ∨ s.outPos + pixelsWritten i ≤ a → Buffer.read t.pixOut a = Buffer.read s.pixOut a) ∧
    ∀ j, j < pixelsWritten i → Buffer.read t.pixOut (s.outPos + j) = some t.prev

/-- 43_decode R197 (a law the spec derives): a chunk that is neither RGBA nor INDEX, and does not overflow, keeps alpha. -/
def Obligations.AlphaChangesOnlyByRgbaOrIndex : Prop :=
  ∀ (i : Instr) (s t : State), i.kind ≠ .rgba → i.kind ≠ .index → (∀ c, i = .run c → s.outPos + c ≤ s.n) →
    exec i s = .next t → t.prev.a = s.prev.a

/-! ## The decode loop -/

/-- 43_decode R182, R183: where the bytes of a whole chunk stand at `inPos` of the payload and decode to `i`, the step is
`i`'s meaning after the refresh, on the state with that turn taken. -/
def Obligations.StepRunsDecodedChunk : Prop :=
  ∀ (s : State) (b0 : Byte) (bs : List Byte) (i : Instr) (rest : List Byte), Running .decode s → s.outPos < s.n →
    s.inPos + chunkLen b0 ≤ s.payLen → Buffer.readN s.inBuf (s.payBase + s.inPos) (chunkLen b0) = some (b0 :: bs) →
    decode (b0 :: bs) = .ok (i, rest) → step s = exec i (refresh (afterTurn s))

/-- 60_exceptions R305 (43_decode R182): with pixels still to come, no tag byte left, or a tag byte that declares more bytes
than remain, aborts with ERR_TRUNCATED. -/
def Obligations.MissingBytesAbort : Prop :=
  ∀ s : State, Running .decode s → s.outPos < s.n →
    (s.payLen ≤ s.inPos ∨ ∃ b0, Buffer.read s.inBuf (s.payBase + s.inPos) = some b0 ∧ s.payLen < s.inPos + chunkLen b0) →
    ∃ t, step s = .next t ∧ Aborted .truncated (afterTurn s) t

/-- 43_decode R180, R181, 45 R272: at the end of the loop, unread payload bytes abort with ERR_TRAILING; else the
transaction is done, with the header of a FILE_DEC, and PIXOUT as the loop left it. That this end is a transition of its
own is the model's (log 5). -/
def Obligations.DecodeEndChecksConsumption : Prop :=
  ∀ s : State, Running .decode s → s.n ≤ s.outPos →
    (s.inPos ≠ s.payLen → ∃ t, step s = .next t ∧ Aborted .trailing (afterTurn s) t) ∧
    (s.inPos = s.payLen → ∃ t, step s = .next t ∧
      Completed none (if s.cmd = some .fileDec then some s.latch else none) (afterTurn s) t ∧ t.pixOut = s.pixOut)

/-- 43_decode R183, R195, 70_reset R347: after the refresh the previous pixel stands at its own slot, so an INDEX that names
it reads it, every other slot is as before, and refreshing again, before or after the pixels of a RUN, changes nothing. -/
def Obligations.RefreshOncePerChunkSuffices : Prop :=
  ∀ s : State, lookup (refresh s).cache (hash s.cfg.hashCoeffs s.prev) = s.prev ∧
    (∀ j, j ≠ hash s.cfg.hashCoeffs s.prev → lookup (refresh s).cache j = lookup s.cache j) ∧
    { refresh s with cache := s.cache } = s ∧ refresh (refresh s) = refresh s ∧
    ∀ c, refresh (putRun c (refresh s)) = putRun c (refresh s)

/-! ## Abort, reset and the host -/

/-- 60_exceptions R312, 20_memory R61 (D22), 10_state R32: an abort sets `err` and `phase`, keeps inputs and parameters, and
leaves nothing to read: OUT, PIXOUT, `outLen` and `hdr` are all refused. -/
def Obligations.AbortLeavesNothingToRead : Prop :=
  ∀ (code : ErrCode) (s : State), Aborted code s (raise code s) ∧
    readOut (raise code s) = .error .outputNotAResult ∧ readPixOut (raise code s) = .error .outputNotAResult ∧
    readOutLen (raise code s) = .error .outLenUnspecified ∧ readHdr (raise code s) = .error .hdrUnspecified

/-- 45 R277 (D20): an issue when no transaction runs makes the block BUSY with `err` 0 and the result fields unspecified, and
changes no buffer and no parameter. -/
def Obligations.IssueMakesBlockBusy : Prop :=
  ∀ (c : Command) (s : State), s.phase ≠ .busy → ∃ t, hostMove (.issue c) s = .next t ∧
    t.phase = .busy ∧ t.err = .none ∧ t.outLen = none ∧ t.hdr = none ∧ t.cmd = some c ∧ t.stage = .start ∧
    t.cfg = s.cfg ∧ t.inBuf = s.inBuf ∧ t.pixIn = s.pixIn ∧ t.outBuf = s.outBuf ∧ t.pixOut = s.pixOut

/-- 45 R277, 20_memory R62 (93 U4, U5; D20, D21): while BUSY an issue, a write of IN or PIXIN and a read of OUT or PIXOUT are
refused, each by its own name. -/
def Obligations.BusyHostMovesAreRefused : Prop :=
  ∀ s : State, s.phase = .busy → (∀ c, hostMove (.issue c) s = .refused .issueWhileBusy) ∧
    (∀ bytes, hostMove (.writeIn bytes) s = .refused .inputWriteWhileBusy) ∧
    (∀ pixels, hostMove (.writePixIn pixels) s = .refused .inputWriteWhileBusy) ∧
    hostMove .readOut s = .refused .outputReadWhileBusy ∧ hostMove .readPixOut s = .refused .outputReadWhileBusy

/-- 70_reset R343: with no transaction running the host fills IN and PIXIN with any strings, which then read back whole. -/
def Obligations.HostFillsInputs : Prop :=
  ∀ (bytes : List Byte) (pixels : List Pixel) (s : State), s.phase ≠ .busy →
    (∃ t, hostMove (.writeIn bytes) s = .next t ∧ Buffer.readN t.inBuf 0 bytes.length = some bytes ∧
      Buffer.size t.inBuf = bytes.length ∧ { t with inBuf := s.inBuf } = s) ∧
    ∃ t, hostMove (.writePixIn pixels) s = .next t ∧ Buffer.readN t.pixIn 0 pixels.length = some pixels ∧
      Buffer.size t.pixIn = pixels.length ∧ { t with pixIn := s.pixIn } = s

/-- 20_memory R61, 10_state R32: `outLen`, `hdr`, OUT and PIXOUT are answered only when DONE. -/
def Obligations.ResultsReadOnlyWhenDone : Prop :=
  ∀ s : State, s.phase ≠ .done →
    (∀ v, readOutLen s ≠ .ok v) ∧ (∀ h, readHdr s ≠ .ok h) ∧ (∀ bs, readOut s ≠ .ok bs) ∧ ∀ ps, readPixOut s ≠ .ok ps

/-- 20_memory R61: when DONE, a defined `outLen` means OUT reads as that many bytes, and a command with a pixel result
means PIXOUT reads as that many pixels. -/
def Obligations.DoneResultsCanBeRead : Prop :=
  ∀ s : State, Inv s → s.phase = .done →
    (∀ len, s.outLen = some len → ∃ bs, readOut s = .ok bs ∧ bs.length = len ∧ bs = Buffer.toList s.outBuf) ∧
    ∀ count, resultPixels s = some count → ∃ ps, readPixOut s = .ok ps ∧ ps.length = count ∧ ps = Buffer.toList s.pixOut

/-- 70_reset R340 (D23): reset is enabled in every state, and sets `phase`, `err`, `outLen` and `hdr`; IN, PIXIN and the
parameters stay, and OUT and PIXOUT too unless a transaction was running (then they are no result). -/
def Obligations.ResetIsAlwaysEnabled : Prop :=
  ∀ s : State, ∃ t, hostMove .reset s = .next t ∧ t.phase = .idle ∧ t.err = .none ∧ t.outLen = none ∧ t.hdr = none ∧
    t.cmd = none ∧ t.cfg = s.cfg ∧ t.inBuf = s.inBuf ∧ t.pixIn = s.pixIn ∧
    (s.phase ≠ .busy → t.outBuf = s.outBuf ∧ t.pixOut = s.pixOut) ∧
    readOut t = .error .outputNotAResult ∧ readPixOut t = .error .outputNotAResult

/-- 70_reset R340: power-on has the effect of a reset, IDLE with `err` 0 and `outLen` and `hdr` unspecified. -/
def Obligations.PowerOnStatus : Prop :=
  State.reset.phase = .idle ∧ State.reset.err = .none ∧ State.reset.outLen = none ∧ State.reset.hdr = none ∧
    readPhase State.reset = 0 ∧ readErr State.reset = 0 ∧
    readOutLen State.reset = .error .outLenUnspecified ∧ readHdr State.reset = .error .hdrUnspecified

/-! ## Commands -/

/-- 42_header R150, 60_exceptions R315 (D5): the HDR_ENC command ends in one step, with 14 bytes in OUT, or with the first
failing check. -/
def Obligations.HdrEncCommand : Prop :=
  ∀ (h : Header) (s : State), Issued (.hdrEnc h) s → s.cfg.posWidth = none →
    (¬(h.channels = 3 ∨ h.channels = 4) → ∃ t, step s = .next t ∧ Aborted .hdrChannels (afterTurn s) t) ∧
    ((h.channels = 3 ∨ h.channels = 4) → ¬(h.colorSpace = 0 ∨ h.colorSpace = 1) →
      ∃ t, step s = .next t ∧ Aborted .hdrColorSpace (afterTurn s) t) ∧
    ((h.channels = 3 ∨ h.channels = 4) → (h.colorSpace = 0 ∨ h.colorSpace = 1) →
      ∃ t, step s = .next t ∧ Completed (some 14) none (afterTurn s) t ∧
        readOut t = .ok ([0x71, 0x6F, 0x69, 0x66] ++ be32 h.width ++ be32 h.height ++ [h.channels, h.colorSpace]))

/-- 42_header R151, 60_exceptions R315 (D4): the HDR_DEC command on any byte string in IN ends in one step, with the tuple in
`hdr`, or with the first failing check of length, magic, channels, color space. -/
def Obligations.HdrDecCommand : Prop :=
  ∀ (s : State) (bytes : List Byte), Issued .hdrDec s → s.inBuf = Buffer.ofList bytes →
    (bytes.length ≠ 14 → ∃ t, step s = .next t ∧ Aborted .hdrLength (afterTurn s) t) ∧
    ∀ m0 m1 m2 m3 w0 w1 w2 w3 h0 h1 h2 h3 c cs : Byte,
      bytes = [m0, m1, m2, m3, w0, w1, w2, w3, h0, h1, h2, h3, c, cs] →
      ([m0, m1, m2, m3] ≠ [0x71, 0x6F, 0x69, 0x66] → ∃ t, step s = .next t ∧ Aborted .hdrMagic (afterTurn s) t) ∧
      ([m0, m1, m2, m3] = [0x71, 0x6F, 0x69, 0x66] →
        (¬(c = 3 ∨ c = 4) → ∃ t, step s = .next t ∧ Aborted .hdrChannels (afterTurn s) t) ∧
        ((c = 3 ∨ c = 4) → ¬(cs = 0 ∨ cs = 1) → ∃ t, step s = .next t ∧ Aborted .hdrColorSpace (afterTurn s) t) ∧
        ((c = 3 ∨ c = 4) → (cs = 0 ∨ cs = 1) → ∃ t, step s = .next t ∧
          Completed none (some ⟨unbe32 w0 w1 w2 w3, unbe32 h0 h1 h2 h3, c, cs⟩) (afterTurn s) t))

/-- 42_header R154 (a law the spec derives): the header codec is a bijection between the legal tuples and the legal strings. -/
def Obligations.HeaderRoundTrip : Prop :=
  (∀ (h : Header) (bytes : List Byte), headerEncode h = .ok bytes → headerDecode bytes = .ok h) ∧
    ∀ (h : Header) (bytes : List Byte), headerDecode bytes = .ok h → headerEncode h = .ok bytes

/-- 45 R274, 60_exceptions R315 (D11): ENCODE and DECODE with more pixels than MAX_PIXELS abort with ERR_CAPACITY before any
step of the loop. -/
def Obligations.CapacityIsCheckedFirst : Prop :=
  ∀ (s : State) (m : Nat), s.cfg.maxPixels = some m →
    (Issued .encode s → m < Buffer.size s.pixIn → ∃ t, step s = .next t ∧ Aborted .capacity (afterTurn s) t) ∧
    ∀ count, Issued (.decode count) s → m < count → ∃ t, step s = .next t ∧ Aborted .capacity (afterTurn s) t

/-- 10_state R36, 45 R274: the start of a DECODE within MAX_PIXELS and POS_WIDTH leaves the invocation-start values, the
payload all of IN, and changes no other buffer. Emptying PIXOUT is the model's (log 10). -/
def Obligations.DecodeStartValues : Prop :=
  ∀ (s : State) (count : Nat), Issued (.decode count) s → overCapacity s.cfg count = false →
    fitsPosWidth s.cfg count = true → fitsPosWidth s.cfg (Buffer.size s.inBuf) = true →
    ∃ t, step s = .next t ∧ t.phase = .busy ∧ t.stage = .decode ∧ t.prev = s.cfg.seedPixel ∧
      (∀ i, lookup t.cache i = Pixel.zero) ∧ t.inPos = 0 ∧ t.outPos = 0 ∧ t.n = count ∧ t.payBase = 0 ∧
      t.payLen = Buffer.size s.inBuf ∧ t.inBuf = s.inBuf ∧ t.outBuf = s.outBuf ∧ t.pixIn = s.pixIn ∧ t.cmd = s.cmd ∧
      t.err = s.err ∧ t.cfg = s.cfg

/-- 10_state R37, 45 R274: the start of an ENCODE within MAX_PIXELS and POS_WIDTH leaves the invocation-start values, with
OUT filled from offset 0 (20_memory R51; log 10). -/
def Obligations.EncodeStartValues : Prop :=
  ∀ s : State, Issued .encode s → overCapacity s.cfg (Buffer.size s.pixIn) = false →
    fitsPosWidth s.cfg (Buffer.size s.pixIn) = true →
    ∃ t, step s = .next t ∧ t.phase = .busy ∧ t.stage = .encode ∧ t.prev = s.cfg.seedPixel ∧
      (∀ i, lookup t.cache i = Pixel.zero) ∧ t.pixPos = 0 ∧ t.run = 0 ∧ t.out = [] ∧ t.n = Buffer.size s.pixIn ∧
      Buffer.size t.outBuf = 0 ∧ t.inBuf = s.inBuf ∧ t.pixIn = s.pixIn ∧ t.pixOut = s.pixOut ∧ t.cmd = s.cmd ∧
      t.err = s.err ∧ t.cfg = s.cfg

/-- 45 R271, 60_exceptions R315 (D6): FILE_ENC checks the shape, then the header, then the capacity; the first that fails is
the abort, and otherwise the encode loop begins with the header in OUT (that it stands there already is the model's, log 12)
and in the latch. -/
def Obligations.FileEncChecksInOrder : Prop :=
  ∀ (s : State) (h : Header), Issued (.fileEnc h) s → s.cfg.posWidth = none →
    (Buffer.size s.pixIn ≠ pixelCount h → ∃ t, step s = .next t ∧ Aborted .encShape (afterTurn s) t) ∧
    (Buffer.size s.pixIn = pixelCount h →
      (∀ e, headerEncode h = .error e → ∃ t, step s = .next t ∧ Aborted e (afterTurn s) t) ∧
      ∀ hb, headerEncode h = .ok hb →
        (overCapacity s.cfg (pixelCount h) = true → ∃ t, step s = .next t ∧ Aborted .capacity (afterTurn s) t) ∧
        (overCapacity s.cfg (pixelCount h) = false → ∃ t, step s = .next t ∧ t.phase = .busy ∧ t.stage = .encode ∧
          t.n = pixelCount h ∧ t.latch = h ∧ Buffer.toList t.outBuf = hb ∧ t.out = [] ∧ t.run = 0 ∧ t.pixPos = 0 ∧
          t.prev = s.cfg.seedPixel ∧ (∀ i, lookup t.cache i = Pixel.zero) ∧ t.pixIn = s.pixIn ∧ t.cmd = s.cmd))

/-- 45 R272, R273, 60_exceptions R315 (D8, D9): FILE_DEC on any byte string checks the length, the header, the room for the
marker, the capacity and the marker, in this order; the first that fails is the abort, and otherwise the decode loop
begins on the bytes between header and marker. -/
def Obligations.FileDecChecksInOrder : Prop :=
  ∀ (s : State) (f : List Byte), Issued .fileDec s → s.inBuf = Buffer.ofList f → s.cfg.posWidth = none →
    (f.length < 14 → ∃ t, step s = .next t ∧ Aborted .hdrLength (afterTurn s) t) ∧
    (14 ≤ f.length →
      (∀ e, headerDecode (f.take 14) = .error e → ∃ t, step s = .next t ∧ Aborted e (afterTurn s) t) ∧
      ∀ h, headerDecode (f.take 14) = .ok h →
        (f.length < 14 + s.cfg.markerLen → ∃ t, step s = .next t ∧ Aborted .fileShort (afterTurn s) t) ∧
        (14 + s.cfg.markerLen ≤ f.length →
          (overCapacity s.cfg (pixelCount h) = true → ∃ t, step s = .next t ∧ Aborted .capacity (afterTurn s) t) ∧
          (overCapacity s.cfg (pixelCount h) = false →
            (markerAccepted (f.drop (f.length - s.cfg.markerLen)) s = false →
              ∃ t, step s = .next t ∧ Aborted .endMarker (afterTurn s) t) ∧
            (markerAccepted (f.drop (f.length - s.cfg.markerLen)) s = true →
              ∃ t, step s = .next t ∧ t.phase = .busy ∧ t.stage = .decode ∧ t.latch = h ∧ t.n = pixelCount h ∧
                t.payBase = 14 ∧ t.payLen = f.length - s.cfg.markerLen - 14 ∧ t.inPos = 0 ∧ t.outPos = 0 ∧
                t.prev = s.cfg.seedPixel ∧ (∀ i, lookup t.cache i = Pixel.zero) ∧ t.inBuf = s.inBuf ∧ t.cmd = s.cmd))))

/-- 45 R273 (D8): a matching marker is accepted under every setting; another one never under ENFORCE, always under IGNORE,
and under EITHER as drawn: the draw is a free value, so nothing rests on either outcome (log 6). -/
def Obligations.MarkerCheckFollowsSetting : Prop :=
  ∀ (bytes : List Byte) (s : State),
    (bytes = s.cfg.endMarker → markerAccepted bytes s = true) ∧
    (s.cfg.endMarkerCheck = .ignore → markerAccepted bytes s = true) ∧
    (s.cfg.endMarkerCheck = .enforce → bytes ≠ s.cfg.endMarker → markerAccepted bytes s = false) ∧
    (s.cfg.endMarkerCheck = .either → bytes ≠ s.cfg.endMarker → markerAccepted bytes s = Config.freeBool s.draws)

/-- 93_implementation_defined U14: an instance whose POS_WIDTH cannot hold `n` or |P| refuses a DECODE that is within
MAX_PIXELS. That the refusal is its first transition, before any error of the decode steps, is DESIGN CHOICE (log 11). -/
def Obligations.NarrowCountersRefuseDecode : Prop :=
  ∀ (s : State) (count w : Nat), Issued (.decode count) s → s.cfg.posWidth = some w →
    overCapacity s.cfg count = false → (2 ^ w ≤ count ∨ 2 ^ w ≤ Buffer.size s.inBuf) →
    step s = .refused .posWidthExceeded

/-! ## The encode loop -/

/-- 44_encode R232, R233: a pixel equal to `prev` extends the run; at 62 or at the last pixel the run is flushed as one RUN
chunk; `prev` and the cache stay. -/
def Obligations.EqualPixelExtendsRun : Prop :=
  ∀ s : State, Running .encode s → s.cfg.posWidth = none → Buffer.Dense s.outBuf → s.pixPos < s.n →
    Buffer.read s.pixIn s.pixPos = some s.prev → ∃ t, step s = .next t ∧ PixelFrame (afterTurn s) t ∧
      t.pixPos = s.pixPos + 1 ∧ t.prev = s.prev ∧ t.cache = s.cache ∧
      (s.run + 1 = 62 ∨ s.pixPos + 1 = s.n → t.run = 0 ∧ Appends (encode (.run (s.run + 1))) s t) ∧
      (¬(s.run + 1 = 62 ∨ s.pixPos + 1 = s.n) → t.run = s.run + 1 ∧ Appends [] s t)

/-- 44_encode R234 to R236, R241: a differing pixel first flushes an open run, then emits its own chunk, INDEX on a cache hit
and the chosen literal or delta chunk otherwise; only a miss stores the pixel; it becomes `prev`. -/
def Obligations.DifferingPixelEmitsItsChunk : Prop :=
  ∀ (s : State) (p : Pixel), Running .encode s → s.cfg.posWidth = none → Buffer.Dense s.outBuf → s.pixPos < s.n →
    Buffer.read s.pixIn s.pixPos = some p → p ≠ s.prev → ∃ t, step s = .next t ∧ PixelFrame (afterTurn s) t ∧
      t.pixPos = s.pixPos + 1 ∧ t.prev = p ∧ t.run = 0 ∧ Appends (flushBytes s ++ encode (pixelChunk p s)) s t ∧
      ∀ j, lookup t.cache j = if j = hash s.cfg.hashCoeffs p then p else lookup s.cache j

/-- 44_encode R237 to R240, R242: RGBA exactly when alpha changed; else DIFF when it fits, else LUMA when it fits, else RGB,
with the packed operands of the rules (the cross differences are not wrapped again, D29). -/
def Obligations.LiteralPriority : Prop :=
  ∀ prev p : Pixel,
    (p.a ≠ prev.a → chooseLiteral prev p = .rgba p.r p.g p.b p.a) ∧
    (p.a = prev.a →
      let dr := delta8 p.r prev.r
      let dg := delta8 p.g prev.g
      let db := delta8 p.b prev.b
      ((-2 ≤ dr ∧ dr ≤ 1) ∧ (-2 ≤ dg ∧ dg ≤ 1) ∧ (-2 ≤ db ∧ db ≤ 1) → chooseLiteral prev p = .diff dr dg db) ∧
      (¬((-2 ≤ dr ∧ dr ≤ 1) ∧ (-2 ≤ dg ∧ dg ≤ 1) ∧ (-2 ≤ db ∧ db ≤ 1)) →
        ((-32 ≤ dg ∧ dg ≤ 31) ∧ (-8 ≤ dr - dg ∧ dr - dg ≤ 7) ∧ (-8 ≤ db - dg ∧ db - dg ≤ 7) →
          chooseLiteral prev p = .luma dg (dr - dg) (db - dg)) ∧
        (¬((-32 ≤ dg ∧ dg ≤ 31) ∧ (-8 ≤ dr - dg ∧ dr - dg ≤ 7) ∧ (-8 ≤ db - dg ∧ db - dg ≤ 7)) →
          chooseLiteral prev p = .rgb p.r p.g p.b)))

/-- 44_encode R237 to R240 with 40_delta_arith R116 and 43_decode R185 to R188: the chunk chosen for a pixel has an encoding, and
executing it where `prev` is the same puts exactly that pixel. -/
def Obligations.ChosenChunkReproducesPixel : Prop :=
  ∀ (p : Pixel) (s : State), (chooseLiteral s.prev p).WellFormed = true ∧
    ∃ t, exec (chooseLiteral s.prev p) s = .next t ∧ PutsOne p (chooseLiteral s.prev p).kind.size s t

/-! ## Whole-machine rules -/

/-- The invariant holds after power-on (the buffers' power-on contents are the model's, log 9). -/
def Obligations.InvHoldsAtReset : Prop := Inv State.reset

/-- Every step keeps the invariant: buffers in canonical form (20_memory R50 to R53), the status record of 10_state R32, and
the counters of a running transaction in range (R26, R27, R29, R30). -/
def Obligations.StepKeepsInv : Prop := ∀ s t : State, Inv s → step s = .next t → Inv t

/-- 70_reset R351 (a law the spec derives): a BUSY block whose engine moves always takes a step, on an instance with unbounded counters. -/
def Obligations.BusyEngineNeverStuck : Prop :=
  ∀ s : State, Inv s → s.phase = .busy → EngineMoves s → s.cfg.posWidth = none → ∃ t, step s = .next t

/-- 70_reset R341: no step changes the parameters. -/
def Obligations.ParametersNeverChange : Prop := ∀ s t : State, step s = .next t → t.cfg = s.cfg

/-- 20_memory R50, R52, R63: the engine never writes IN or PIXIN. -/
def Obligations.EngineNeverWritesInputs : Prop :=
  ∀ s t : State, EngineMoves s → step s = .next t → t.inBuf = s.inBuf ∧ t.pixIn = s.pixIn

/-- 10_state R32: `phase` changes only by command issue, by transaction end and by reset. -/
def Obligations.PhaseChangesOnlyBy : Prop :=
  ∀ s t : State, step s = .next t → t.phase ≠ s.phase →
    (∃ c rest, s.turns = .host (.issue c) :: rest ∧ s.phase ≠ .busy ∧ t.phase = .busy) ∨
    (∃ rest, s.turns = .host .reset :: rest ∧ t.phase = .idle) ∨
    (EngineMoves s ∧ s.phase = .busy ∧ (t.phase = .done ∧ t.err = .none ∨ t.phase = .error ∧ t.err ≠ .none))

/-- 10_state R35, R38, 70_reset R342: states that differ only in working state no rule may read step to states that again differ
only so, or stop for the same reason: nothing of an earlier transaction reaches a later one. -/
def Obligations.TransactionsAreIndependent : Prop :=
  ∀ s t : State, Indistinguishable s t → SameOutcome (step s) (step t)

/-- 43_decode R193, 70_reset R350 (a law the spec derives): a decode loop ends after at most `min(n, |P|)` completing steps and one
that raises or finishes (that the finish is a transition is the model's, log 5), counted from any state of the loop. -/
def Obligations.DecodeAlwaysEnds : Prop :=
  ∀ s : State, Inv s → s.phase = .busy → s.stage = .decode → s.turns = [] →
    ∃ k t, k ≤ min (s.n - s.outPos) (s.payLen - s.inPos) + 1 ∧ runFor k s = .next t ∧ (t.phase = .done ∨ t.phase = .error)

/-- 44_encode R243, 70_reset R350 (a law the spec derives): an encode loop takes exactly one step for each pixel left, during which
it stays BUSY, then ends DONE (that the end is a transition of its own is the model's, log 5). -/
def Obligations.EncodeTakesOneStepPerPixel : Prop :=
  ∀ s : State, Inv s → s.phase = .busy → s.stage = .encode → s.turns = [] → s.cfg.posWidth = none →
    (∀ k, k ≤ s.n - s.pixPos → ∃ t, runFor k s = .next t ∧ t.phase = .busy ∧ t.pixPos = s.pixPos + k) ∧
    ∃ t, runFor (s.n - s.pixPos + 1) s = .next t ∧ t.phase = .done ∧ t.err = .none

/-- 43_decode R194 (a law the spec derives): with `n = 0`, an empty payload decodes to no pixels, and any other payload is
ERR_TRAILING; two transitions after the issue (log 5). -/
def Obligations.EmptyImage : Prop :=
  ∀ s : State, Issued (.decode 0) s → s.turns = [] → s.cfg.posWidth = none →
    (Buffer.size s.inBuf = 0 → ∃ t, runFor 2 s = .next t ∧ t.phase = .done ∧ readPixOut t = .ok []) ∧
    (Buffer.size s.inBuf ≠ 0 → ∃ t, runFor 2 s = .next t ∧ t.phase = .error ∧ t.err = .trailing)

/-- 44_encode R243 (a law the spec derives): ENCODE never raises, and its output has between `ceil(n / 62)` and `5n` bytes. -/
def Obligations.EncodeLengthBounds : Prop :=
  ∀ (s : State) (x : List Pixel), s.phase ≠ .busy → s.cfg.posWidth = none → overCapacity s.cfg x.length = false →
    ∃ k t stream, runFor k { s with turns := [.host (.writePixIn x), .host (.issue .encode)] } = .next t ∧
      t.phase = .done ∧ readOut t = .ok stream ∧ t.outLen = some stream.length ∧
      (x.length + 61) / 62 ≤ stream.length ∧ stream.length ≤ 5 * x.length

/-- 44_encode R244, the payload round-trip law (a law the spec derives): under the seed condition, encoding any pixels and
decoding the stream with their number gives the pixels back. -/
def Obligations.PayloadRoundTrip : Prop :=
  ∀ (s : State) (x : List Pixel), s.phase ≠ .busy → s.cfg.posWidth = none → SeedOk s.cfg →
    overCapacity s.cfg x.length = false →
    ∃ k t stream, runFor k { s with turns := [.host (.writePixIn x), .host (.issue .encode)] } = .next t ∧
      t.phase = .done ∧ readOut t = .ok stream ∧
      ∃ k' u, runFor k' { t with turns := [.host (.writeIn stream), .host (.issue (.decode x.length))] } = .next u ∧
        u.phase = .done ∧ readPixOut u = .ok x

/-- 45 R275, the file round-trip law (a law the spec derives): under the seed condition and for every END_MARKER and
END_MARKER_CHECK, a legal header and as many pixels as it says make a file that decodes to the same header and pixels. -/
def Obligations.FileRoundTrip : Prop :=
  ∀ (s : State) (h : Header) (x : List Pixel), s.phase ≠ .busy → s.cfg.posWidth = none → SeedOk s.cfg →
    (h.channels = 3 ∨ h.channels = 4) → (h.colorSpace = 0 ∨ h.colorSpace = 1) → x.length = pixelCount h →
    overCapacity s.cfg x.length = false →
    ∃ k t file, runFor k { s with turns := [.host (.writePixIn x), .host (.issue (.fileEnc h))] } = .next t ∧
      t.phase = .done ∧ readOut t = .ok file ∧
      ∃ k' u, runFor k' { t with turns := [.host (.writeIn file), .host (.issue .fileDec)] } = .next u ∧
        u.phase = .done ∧ readHdr u = .ok h ∧ readPixOut u = .ok x
end

