-- ==== Sys2Proof/Laws/Arith.lean ====
section
/-!
SUPPORT. What the delta arithmetic and the hash are in numbers.
-/

namespace Sys2Proof.Machine

/-- `wrap8` is the floor modulo (00_scope R7). -/
theorem wrap8_toNat (v : Int) : ((wrap8 v).toNat : Int) = v % 256 := by
  unfold wrap8
  simp only [BitVec.toNat_ofNat]
  omega

theorem add8_toNat (a : Byte) (d : Int) : ((add8 a d).toNat : Int) = ((a.toNat : Int) + d) % 256 := by
  unfold add8
  exact wrap8_toNat _

theorem sext8_eq (v : Byte) : sext8 v = if v.toNat < 128 then (v.toNat : Int) else (v.toNat : Int) - 256 := rfl

theorem sext8_range (v : Byte) : -128 ≤ sext8 v ∧ sext8 v ≤ 127 := by
  have := v.isLt
  unfold sext8
  split <;> omega

/-- `delta8` is congruent to the difference and lies in the signed range. -/
theorem delta8_spec (c p : Byte) : delta8 c p % 256 = ((c.toNat : Int) - p.toNat) % 256 ∧ -128 ≤ delta8 c p ∧ delta8 c p ≤ 127 := by
  refine ⟨?_, sext8_range _⟩
  have h := wrap8_toNat ((c.toNat : Int) - p.toNat)
  unfold delta8 sext8
  split <;> omega

theorem delta8_eq_zero (c p : Byte) : delta8 c p = 0 ↔ c = p := by
  have h := delta8_spec c p
  have hc := c.isLt
  have hp := p.isLt
  constructor
  · intro h0
    apply BitVec.eq_of_toNat_eq
    rw [h0] at h
    omega
  · rintro rfl
    omega

theorem hash_toNat (k : HashCoeffs) (p : Pixel) :
    (hash k p).toNat = (k.kR * p.r.toNat + k.kG * p.g.toNat + k.kB * p.b.toNat + k.kA * p.a.toNat) % 64 := by
  simp [hash, BitVec.toNat_ofNat]

theorem inDiff_iff (d : Int) : inDiff d = true ↔ -2 ≤ d ∧ d ≤ 1 := by simp [inDiff]

theorem inLumaG_iff (d : Int) : inLumaG d = true ↔ -32 ≤ d ∧ d ≤ 31 := by simp [inLumaG]

theorem inLumaX_iff (d : Int) : inLumaX d = true ↔ -8 ≤ d ∧ d ≤ 7 := by simp [inLumaX]

theorem fitsDiff_iff (d : Deltas) :
    fitsDiff d = true ↔ d.dA = 0 ∧ (-2 ≤ d.dR ∧ d.dR ≤ 1) ∧ (-2 ≤ d.dG ∧ d.dG ≤ 1) ∧ (-2 ≤ d.dB ∧ d.dB ≤ 1) := by
  simp [fitsDiff, inDiff_iff, and_assoc]

theorem fitsLuma_iff (d : Deltas) :
    fitsLuma d = true ↔ d.dA = 0 ∧ (-32 ≤ d.dG ∧ d.dG ≤ 31) ∧ (-8 ≤ d.dR - d.dG ∧ d.dR - d.dG ≤ 7) ∧
      (-8 ≤ d.dB - d.dG ∧ d.dB - d.dG ≤ 7) := by
  simp [fitsLuma, inLumaG_iff, inLumaX_iff, dRG, dBG, and_assoc]

end Sys2Proof.Machine
end

