-- ==== Sys2Proof/Laws/Buffer.lean ====
section
/-!
SUPPORT. The laws of buffers: a read after a write, the canonical form kept by every operation, and strings as buffers.
-/

namespace Sys2Proof.Machine

variable {α : Type}

/-! ## Reads and writes -/

@[simp] theorem Buffer.read_nil (a : Nat) : Buffer.read ([] : Buffer α) a = none := rfl

@[simp] theorem Buffer.read_cons (k : Nat) (x : α) (m : Buffer α) (a : Nat) :
    Buffer.read ((k, x) :: m) a = if k = a then some x else Buffer.read m a := rfl

@[simp] theorem Buffer.read_write_same (m : Buffer α) (a : Nat) (v : α) :
    Buffer.read (Buffer.write m a v) a = some v := by
  induction m with
  | nil => simp [Buffer.write]
  | cons e m ih =>
    obtain ⟨k, x⟩ := e
    unfold Buffer.write
    split
    · simp
    · split
      · simp
      · rename_i h
        simp [Ne.symm h, ih]

theorem Buffer.read_write_other (m : Buffer α) {a b : Nat} (v : α) (h : b ≠ a) :
    Buffer.read (Buffer.write m a v) b = Buffer.read m b := by
  induction m with
  | nil => simp [Buffer.write, h.symm]
  | cons e m ih =>
    obtain ⟨k, x⟩ := e
    unfold Buffer.write
    split
    · simp [h.symm]
    · split
      · rename_i hk
        subst hk
        simp [h.symm]
      · simp [ih]

@[simp] theorem Buffer.writeN_nil (m : Buffer α) (a : Nat) : Buffer.writeN m a [] = m := rfl

@[simp] theorem Buffer.writeN_cons (m : Buffer α) (a : Nat) (x : α) (xs : List α) :
    Buffer.writeN m a (x :: xs) = Buffer.writeN (Buffer.write m a x) (a + 1) xs := rfl

/-- A write of several entries leaves every address outside them as it was. -/
theorem Buffer.read_writeN_outside (m : Buffer α) (a : Nat) (xs : List α) (b : Nat) (h : b < a ∨ a + xs.length ≤ b) :
    Buffer.read (Buffer.writeN m a xs) b = Buffer.read m b := by
  induction xs generalizing m a with
  | nil => rfl
  | cons x xs ih =>
    simp only [List.length_cons] at h
    rw [Buffer.writeN_cons, ih _ _ (by omega), Buffer.read_write_other _ _ (by omega)]

/-- A write of several entries puts each where it belongs. -/
theorem Buffer.read_writeN_inside (m : Buffer α) (a : Nat) (xs : List α) (j : Nat) (h : j < xs.length) :
    Buffer.read (Buffer.writeN m a xs) (a + j) = some xs[j] := by
  induction xs generalizing m a j with
  | nil => simp at h
  | cons x xs ih =>
    cases j with
    | zero => rw [Buffer.writeN_cons, Buffer.read_writeN_outside _ _ _ _ (by omega)]; simp
    | succ j =>
      have := ih (Buffer.write m a x) (a + 1) j (by simpa using h)
      rw [Buffer.writeN_cons, show a + (j + 1) = a + 1 + j by omega, this]
      simp

/-! ## The canonical form -/

theorem Buffer.mem_keys_write (m : Buffer α) (a : Nat) (v : α) (k : Nat) :
    k ∈ (Buffer.write m a v).map Prod.fst ↔ k = a ∨ k ∈ m.map Prod.fst := by
  induction m with
  | nil => simp [Buffer.write]
  | cons e m ih =>
    obtain ⟨k', x⟩ := e
    unfold Buffer.write
    split
    · simp
    · split
      · rename_i hk
        subst hk
        simp
      · simp only [List.map_cons, List.mem_cons, ih]
        tauto

/-- A write keeps the canonical form. -/
theorem Buffer.wf_write (m : Buffer α) (a : Nat) (v : α) (h : Buffer.wf m) : Buffer.wf (Buffer.write m a v) := by
  induction m with
  | nil => simp [Buffer.write, Buffer.wf]
  | cons e m ih =>
    obtain ⟨k, x⟩ := e
    simp only [Buffer.wf, List.map_cons, List.pairwise_cons] at h ih
    unfold Buffer.write
    split
    · rename_i hlt
      simp only [Buffer.wf, List.map_cons, List.pairwise_cons, List.mem_cons, forall_eq_or_imp]
      exact ⟨⟨hlt, fun b hb => lt_trans hlt (h.1 b hb)⟩, h.1, h.2⟩
    · split
      · rename_i heq
        subst heq
        simpa [Buffer.wf] using h
      · simp only [Buffer.wf, List.map_cons, List.pairwise_cons]
        refine ⟨fun b hb => ?_, ih h.2⟩
        rcases (Buffer.mem_keys_write m a v b).1 hb with rfl | hb
        · omega
        · exact h.1 b hb

/-- A write of several entries keeps the canonical form. -/
theorem Buffer.wf_writeN (m : Buffer α) (a : Nat) (xs : List α) (h : Buffer.wf m) : Buffer.wf (Buffer.writeN m a xs) := by
  induction xs generalizing m a with
  | nil => exact h
  | cons x xs ih => exact ih _ _ (Buffer.wf_write m a x h)

@[simp] theorem Buffer.ofListFrom_nil (a : Nat) : Buffer.ofListFrom a ([] : List α) = [] := rfl

@[simp] theorem Buffer.ofListFrom_cons (a : Nat) (x : α) (xs : List α) :
    Buffer.ofListFrom a (x :: xs) = (a, x) :: Buffer.ofListFrom (a + 1) xs := rfl

@[simp] theorem Buffer.ofListFrom_length (a : Nat) (xs : List α) : (Buffer.ofListFrom a xs).length = xs.length := by
  induction xs generalizing a with
  | nil => rfl
  | cons x xs ih => simp [ih]

@[simp] theorem Buffer.size_ofList (xs : List α) : Buffer.size (Buffer.ofList xs) = xs.length :=
  Buffer.ofListFrom_length 0 xs

theorem Buffer.ofListFrom_keys (a : Nat) (xs : List α) :
    (Buffer.ofListFrom a xs).map Prod.fst = List.range' a xs.length := by
  induction xs generalizing a with
  | nil => rfl
  | cons x xs ih => simp [ih, List.range'_succ]

@[simp] theorem Buffer.ofListFrom_values (a : Nat) (xs : List α) : (Buffer.ofListFrom a xs).map Prod.snd = xs := by
  induction xs generalizing a with
  | nil => rfl
  | cons x xs ih => simp [ih]

@[simp] theorem Buffer.toList_ofList (xs : List α) : Buffer.toList (Buffer.ofList xs) = xs :=
  Buffer.ofListFrom_values 0 xs

/-- A string's buffer has the addresses 0 to its length less one. -/
theorem Buffer.dense_ofList (xs : List α) : Buffer.Dense (Buffer.ofList xs) := by
  simp [Buffer.Dense, Buffer.ofList, Buffer.ofListFrom_keys, List.range_eq_range']

/-- A string's buffer is in canonical form (addresses 0, 1, 2, … rise strictly). -/
theorem Buffer.Dense.wf {m : Buffer α} (h : Buffer.Dense m) : Buffer.wf m := by
  unfold Buffer.wf
  rw [h]
  exact List.pairwise_lt_range

theorem Buffer.wf_ofList (xs : List α) : Buffer.wf (Buffer.ofList xs) := (Buffer.dense_ofList xs).wf

/-- The empty buffer of reset is in canonical form. -/
theorem Buffer.wf_nil : Buffer.wf ([] : Buffer α) := List.Pairwise.nil

/-- A buffer whose addresses are 0, 1, 2, … is the buffer of its contents. -/
theorem Buffer.Dense.eq_ofList {m : Buffer α} (h : Buffer.Dense m) : m = Buffer.ofList (Buffer.toList m) := by
  have key : ∀ (m : Buffer α) (a : Nat), m.map Prod.fst = List.range' a m.length →
      m = Buffer.ofListFrom a (m.map Prod.snd) := by
    intro m
    induction m with
    | nil => intro a _; rfl
    | cons e m ih =>
      intro a hk
      obtain ⟨k, x⟩ := e
      simp only [List.map_cons, List.length_cons, List.range'_succ, List.cons.injEq] at hk
      obtain ⟨rfl, hk⟩ := hk
      simp only [List.map_cons, Buffer.ofListFrom_cons]
      rw [← ih _ hk]
  exact key m 0 (by rw [h, List.range_eq_range'])

/-! ## Strings as buffers -/

theorem Buffer.read_ofListFrom (a : Nat) (xs : List α) (j : Nat) :
    Buffer.read (Buffer.ofListFrom a xs) (a + j) = xs[j]? := by
  induction xs generalizing a j with
  | nil => simp
  | cons x xs ih =>
    cases j with
    | zero => simp
    | succ j =>
      have := ih (a + 1) j
      simp only [Buffer.ofListFrom_cons, Buffer.read_cons, List.getElem?_cons_succ]
      rw [if_neg (by omega), ← this]
      congr 1
      omega

/-- Reading a string at `j` gives its element `j`. -/
@[simp] theorem Buffer.read_ofList (xs : List α) (j : Nat) : Buffer.read (Buffer.ofList xs) j = xs[j]? := by
  simpa [Buffer.ofList] using Buffer.read_ofListFrom 0 xs j

/-- `MemRead` of a string is its slice, where the slice lies inside it. -/
theorem Buffer.readN_ofList (xs : List α) (a len : Nat) (h : a + len ≤ xs.length) :
    Buffer.readN (Buffer.ofList xs) a len = some ((xs.drop a).take len) := by
  induction len generalizing a with
  | zero => simp [Buffer.readN]
  | succ len ih =>
    have ha : a < xs.length := by omega
    simp only [Buffer.readN, Buffer.read_ofList, List.getElem?_eq_getElem ha, ih (a + 1) (by omega)]
    rw [List.drop_eq_getElem_cons ha, List.take_succ_cons]

/-- A whole string read back. -/
@[simp] theorem Buffer.readN_ofList_all (xs : List α) :
    Buffer.readN (Buffer.ofList xs) 0 xs.length = some xs := by
  rw [Buffer.readN_ofList xs 0 xs.length (by omega)]
  simp

theorem Buffer.write_ofListFrom_end (a : Nat) (xs : List α) (v : α) :
    Buffer.write (Buffer.ofListFrom a xs) (a + xs.length) v = Buffer.ofListFrom a (xs ++ [v]) := by
  induction xs generalizing a with
  | nil => simp [Buffer.write]
  | cons x xs ih =>
    simp only [Buffer.ofListFrom_cons, Buffer.write, List.length_cons, List.cons_append]
    rw [if_neg (by omega), if_neg (by omega), show a + (xs.length + 1) = a + 1 + xs.length by omega, ih]

/-- A write at the end of a string appends. -/
theorem Buffer.write_ofList_end (xs : List α) (v : α) :
    Buffer.write (Buffer.ofList xs) xs.length v = Buffer.ofList (xs ++ [v]) := by
  simpa [Buffer.ofList] using Buffer.write_ofListFrom_end 0 xs v

/-- Writing a string at the end of a string appends it. -/
theorem Buffer.writeN_ofList_end (xs ys : List α) :
    Buffer.writeN (Buffer.ofList xs) xs.length ys = Buffer.ofList (xs ++ ys) := by
  induction ys generalizing xs with
  | nil => simp
  | cons y ys ih =>
    rw [Buffer.writeN_cons, Buffer.write_ofList_end]
    have := ih (xs ++ [y])
    simpa using this

/-! ## The operations on strings keep them strings -/

theorem Buffer.dense_write_end {m : Buffer α} (h : Buffer.Dense m) (v : α) : Buffer.Dense (Buffer.write m m.length v) := by
  have hm := h.eq_ofList
  have hl : m.length = (Buffer.toList m).length := by simp [Buffer.toList]
  rw [hl]
  generalize Buffer.toList m = xs at *
  subst hm
  rw [Buffer.write_ofList_end]
  exact Buffer.dense_ofList _

theorem Buffer.dense_writeN_end {m : Buffer α} (h : Buffer.Dense m) (ys : List α) :
    Buffer.Dense (Buffer.writeN m m.length ys) := by
  have hm := h.eq_ofList
  have hl : m.length = (Buffer.toList m).length := by simp [Buffer.toList]
  rw [hl]
  generalize Buffer.toList m = xs at *
  subst hm
  rw [Buffer.writeN_ofList_end]
  exact Buffer.dense_ofList _

theorem Buffer.length_writeN_end {m : Buffer α} (h : Buffer.Dense m) (ys : List α) :
    (Buffer.writeN m m.length ys).length = m.length + ys.length := by
  have hm := h.eq_ofList
  have hl : m.length = (Buffer.toList m).length := by simp [Buffer.toList]
  rw [hl]
  generalize Buffer.toList m = xs at *
  subst hm
  rw [Buffer.writeN_ofList_end]
  simp [Buffer.ofList]

theorem Buffer.length_write_end {m : Buffer α} (h : Buffer.Dense m) (v : α) :
    (Buffer.write m m.length v).length = m.length + 1 := by
  simpa using Buffer.length_writeN_end h [v]

/-- A read inside a string finds an entry. -/
theorem Buffer.Dense.read_isSome {m : Buffer α} (h : Buffer.Dense m) {a : Nat} (ha : a < m.length) :
    ∃ x, Buffer.read m a = some x := by
  have hl : m.length = (Buffer.toList m).length := by simp [Buffer.toList]
  rw [h.eq_ofList, Buffer.read_ofList]
  exact ⟨_, List.getElem?_eq_getElem (by omega)⟩

/-- `MemRead` inside a string finds all its entries. -/
theorem Buffer.Dense.readN_isSome {m : Buffer α} (h : Buffer.Dense m) {a len : Nat} (ha : a + len ≤ m.length) :
    ∃ xs, Buffer.readN m a len = some xs ∧ xs.length = len := by
  have hl : m.length = (Buffer.toList m).length := by simp [Buffer.toList]
  rw [h.eq_ofList, Buffer.readN_ofList _ _ _ (by omega)]
  refine ⟨_, rfl, ?_⟩
  simp
  omega

theorem Buffer.readN_length {m : Buffer α} {a len : Nat} {xs : List α} (h : Buffer.readN m a len = some xs) :
    xs.length = len := by
  induction len generalizing a xs with
  | zero => simp_all [Buffer.readN]
  | succ len ih =>
    simp only [Buffer.readN] at h
    split at h
    · rename_i h2
      cases h
      simp [ih h2]
    · cases h

/-- The first byte `MemRead` gives is the one at its first address. -/
theorem Buffer.readN_head {m : Buffer α} {a len : Nat} {x : α} {xs : List α}
    (h : Buffer.readN m a (len + 1) = some (x :: xs)) : Buffer.read m a = some x := by
  simp only [Buffer.readN] at h
  split at h
  · rename_i h1 _
    cases h
    exact h1
  · cases h

end Sys2Proof.Machine
end

