-- ==== Sys2Proof/Laws/Cache.lean ====
section
/-!
SUPPORT. The laws of the pixel cache: a lookup after a store.
-/

namespace Sys2Proof.Machine

theorem slot_inj {i j : BitVec 6} (h : slot i = slot j) : i = j := by
  apply BitVec.eq_of_toNat_eq
  exact congrArg Fin.val h

theorem lookup_cacheStore (c : Vector Pixel 64) (i j : BitVec 6) (p : Pixel) :
    lookup (cacheStore c i p) j = if i = j then p else lookup c j := by
  unfold lookup cacheStore
  simp only [Vector.get_eq_getElem, Vector.getElem_set]
  by_cases h : i = j
  · simp [h]
  · rw [if_neg h, if_neg]
    intro h'
    exact h (slot_inj (Fin.ext h'))

@[simp] theorem lookup_cacheStore_same (c : Vector Pixel 64) (i : BitVec 6) (p : Pixel) :
    lookup (cacheStore c i p) i = p := by simp [lookup_cacheStore]

theorem lookup_cacheStore_other (c : Vector Pixel 64) {i j : BitVec 6} (p : Pixel) (h : i ≠ j) :
    lookup (cacheStore c i p) j = lookup c j := by simp [lookup_cacheStore, h]

/-- Right after a transaction starts every slot holds (0,0,0,0) (41_pixel_cache R132). -/
@[simp] theorem lookup_zeroed (i : BitVec 6) : lookup (Vector.replicate 64 Pixel.zero) i = Pixel.zero := by
  simp [lookup, Vector.get_eq_getElem]

/-- Caches that agree in every slot are equal. -/
theorem cache_ext {c d : Vector Pixel 64} (h : ∀ i, lookup c i = lookup d i) : c = d := by
  apply Vector.ext
  intro k hk
  have := h (BitVec.ofNat 6 k)
  simpa [lookup, slot, Vector.get_eq_getElem, Nat.mod_eq_of_lt hk] using this

/-- Storing the same pixel twice is storing it once (41_pixel_cache R133). -/
theorem cacheStore_twice (c : Vector Pixel 64) (i : BitVec 6) (p : Pixel) :
    cacheStore (cacheStore c i p) i p = cacheStore c i p := by
  apply cache_ext
  intro j
  by_cases h : i = j <;> simp [lookup_cacheStore, h]

/-- A store of what the slot already holds changes nothing (41_pixel_cache R133). -/
theorem cacheStore_same (c : Vector Pixel 64) (i : BitVec 6) : cacheStore c i (lookup c i) = c := by
  apply cache_ext
  intro j
  by_cases h : i = j
  · subst h; simp
  · simp [lookup_cacheStore, h]

end Sys2Proof.Machine
end

