-- ==== Sys2Proof/Laws/Decode.lean ====
section
/-!
SUPPORT. The laws of the tag partition and of the decoder: a chunk's length is its kind's size, and the decoder gives an
instruction exactly where that many bytes are there.
-/

namespace Sys2Proof

/-- The length of 30_encoding R96 is the size of the kind of R81. -/
theorem chunkLen_eq_size (b0 : Byte) : chunkLen b0 = (chunkKind b0).size := by
  unfold chunkLen chunkKind
  by_cases h1 : b0 = 0xFE
  · simp [h1, ChunkKind.size]
  by_cases h2 : b0 = 0xFF
  · simp [h2, ChunkKind.size]
  by_cases h3 : tagBits b0 = 0b00
  · simp only [if_neg h1, if_neg h2, if_pos h3, ChunkKind.size]
    rw [h3]
    rfl
  by_cases h4 : tagBits b0 = 0b01
  · simp only [if_neg h1, if_neg h2, if_neg h3, if_pos h4, ChunkKind.size]
    rw [h4]
    rfl
  by_cases h5 : tagBits b0 = 0b10
  · simp only [if_neg h1, if_neg h2, if_neg h3, if_neg h4, if_pos h5, ChunkKind.size]
  · simp only [if_neg h1, if_neg h2, if_neg h3, if_neg h4, if_neg h5, ChunkKind.size]

/-- Every chunk has a byte. -/
theorem chunkLen_pos (b0 : Byte) : 1 ≤ chunkLen b0 := by
  rw [chunkLen_eq_size]
  cases chunkKind b0 <;> simp [ChunkKind.size]

/-- No chunk is longer than five bytes. -/
theorem chunkLen_le (b0 : Byte) : chunkLen b0 ≤ 5 := by
  rw [chunkLen_eq_size]
  cases chunkKind b0 <;> simp [ChunkKind.size]

/-- Where the declared bytes are there, the decoder gives an instruction of the tag's kind and the bytes after it. -/
theorem decode_ok_of_length (b0 : Byte) (bs : List Byte) (h : chunkLen b0 ≤ bs.length + 1) :
    ∃ i, decode (b0 :: bs) = .ok (i, bs.drop (chunkLen b0 - 1)) ∧ i.kind = chunkKind b0 := by
  rw [chunkLen_eq_size] at h ⊢
  unfold decode
  cases hk : chunkKind b0 <;> simp only [hk, ChunkKind.size] at h ⊢
  · exact ⟨_, rfl, rfl⟩
  · exact ⟨_, rfl, rfl⟩
  · match bs, h with
    | b1 :: r, _ => exact ⟨_, rfl, rfl⟩
  · exact ⟨_, rfl, rfl⟩
  · match bs, h with
    | r :: g :: b :: rest, _ => exact ⟨_, rfl, rfl⟩
  · match bs, h with
    | r :: g :: b :: a :: rest, _ => exact ⟨_, rfl, rfl⟩

/-- Bytes that are exactly one chunk decode to it, with nothing left over. -/
theorem decode_ok_of_chunk (b0 : Byte) (bs : List Byte) (h : bs.length + 1 = chunkLen b0) :
    ∃ i, decode (b0 :: bs) = .ok (i, []) ∧ i.kind = chunkKind b0 := by
  obtain ⟨i, hi, hk⟩ := decode_ok_of_length b0 bs (by omega)
  refine ⟨i, ?_, hk⟩
  rw [hi, List.drop_eq_nil_of_le (by omega)]

/-- What a decoded chunk consumed is its kind's size. -/
theorem decode_consumed {c : List Byte} {i : Instr} {rest : List Byte} (h : decode c = .ok (i, rest)) :
    c.length = i.kind.size + rest.length := by
  unfold decode at h
  cases c with
  | nil => cases h
  | cons b0 bs =>
    cases hk : chunkKind b0 <;> simp only [hk] at h
    · cases h; simp [Instr.kind, ChunkKind.size]; omega
    · cases h; simp [Instr.kind, ChunkKind.size]; omega
    · split at h
      · cases h; simp [Instr.kind, ChunkKind.size]; omega
      · cases h
    · cases h; simp [Instr.kind, ChunkKind.size]; omega
    · split at h
      · cases h; simp [Instr.kind, ChunkKind.size]; omega
      · cases h
    · split at h
      · cases h; simp [Instr.kind, ChunkKind.size]; omega
      · cases h

/-- The encoder gives as many bytes as the kind's size. -/
theorem encode_length (i : Instr) : (encode i).length = i.kind.size := by
  cases i <;> rfl

end Sys2Proof
end

