-- ==== Sys2Proof/Laws/PerInstr.lean ====
section
/-! SUPPORT. Facts about every instruction as a term, one lemma a constructor. -/

namespace Sys2Proof.Laws.EncodeStart

/-- The packed bytes begin with a tag byte of the instruction's own kind, and are as many as the kind's size
(30_encoding R80, R89). -/
def Statement (i : Instr) : Prop :=
  i.WellFormed = true → ∃ b0 bs, encode i = b0 :: bs ∧ chunkKind b0 = i.kind ∧ bs.length + 1 = i.kind.size

theorem index (i : BitVec 6) : Statement (.index i) := by
  intro _
  refine ⟨_, _, rfl, ?_, rfl⟩
  revert i
  decide

theorem diff (dr dg db : Int) : Statement (.diff dr dg db) := by
  intro h
  simp only [Instr.WellFormed, Bool.and_eq_true, decide_eq_true_eq] at h
  obtain ⟨⟨⟨h1, h2⟩, h3, h4⟩, h5, h6⟩ := h
  refine ⟨_, _, rfl, ?_, rfl⟩
  interval_cases dr <;> interval_cases dg <;> interval_cases db <;> rfl

theorem luma (dg drg dbg : Int) : Statement (.luma dg drg dbg) := by
  intro h
  simp only [Instr.WellFormed, Bool.and_eq_true, decide_eq_true_eq] at h
  obtain ⟨⟨⟨h1, h2⟩, -⟩, -⟩ := h
  refine ⟨_, _, rfl, ?_, rfl⟩
  interval_cases dg <;> rfl

theorem run (c : Nat) : Statement (.run c) := by
  intro h
  simp only [Instr.WellFormed, decide_eq_true_eq] at h
  obtain ⟨h1, h2⟩ := h
  refine ⟨_, _, rfl, ?_, rfl⟩
  interval_cases c <;> rfl

theorem rgb (r g b : Byte) : Statement (.rgb r g b) := fun _ => ⟨_, _, rfl, rfl, rfl⟩

theorem rgba (r g b a : Byte) : Statement (.rgba r g b a) := fun _ => ⟨_, _, rfl, rfl, rfl⟩

end Sys2Proof.Laws.EncodeStart
end

