-- ==== Sys2Proof/Laws/State.lean ====
section
/-!
SUPPORT. For every named update of the state, what each field is after it, so that no proof unfolds a record update.
-/

namespace Sys2Proof.Machine

variable (s : State)

/-! ## store -/

@[simp] theorem store_cfg (i : BitVec 6) (p : Pixel) : (store i p s).cfg = s.cfg := rfl
@[simp] theorem store_phase (i : BitVec 6) (p : Pixel) : (store i p s).phase = s.phase := rfl
@[simp] theorem store_err (i : BitVec 6) (p : Pixel) : (store i p s).err = s.err := rfl
@[simp] theorem store_outLen (i : BitVec 6) (p : Pixel) : (store i p s).outLen = s.outLen := rfl
@[simp] theorem store_hdr (i : BitVec 6) (p : Pixel) : (store i p s).hdr = s.hdr := rfl
@[simp] theorem store_inBuf (i : BitVec 6) (p : Pixel) : (store i p s).inBuf = s.inBuf := rfl
@[simp] theorem store_outBuf (i : BitVec 6) (p : Pixel) : (store i p s).outBuf = s.outBuf := rfl
@[simp] theorem store_pixIn (i : BitVec 6) (p : Pixel) : (store i p s).pixIn = s.pixIn := rfl
@[simp] theorem store_pixOut (i : BitVec 6) (p : Pixel) : (store i p s).pixOut = s.pixOut := rfl
@[simp] theorem store_prev (i : BitVec 6) (p : Pixel) : (store i p s).prev = s.prev := rfl
@[simp] theorem store_cache (i : BitVec 6) (p : Pixel) : (store i p s).cache = cacheStore s.cache i p := rfl
@[simp] theorem store_inPos (i : BitVec 6) (p : Pixel) : (store i p s).inPos = s.inPos := rfl
@[simp] theorem store_outPos (i : BitVec 6) (p : Pixel) : (store i p s).outPos = s.outPos := rfl
@[simp] theorem store_pixPos (i : BitVec 6) (p : Pixel) : (store i p s).pixPos = s.pixPos := rfl
@[simp] theorem store_run (i : BitVec 6) (p : Pixel) : (store i p s).run = s.run := rfl
@[simp] theorem store_out (i : BitVec 6) (p : Pixel) : (store i p s).out = s.out := rfl
@[simp] theorem store_latch (i : BitVec 6) (p : Pixel) : (store i p s).latch = s.latch := rfl
@[simp] theorem store_n (i : BitVec 6) (p : Pixel) : (store i p s).n = s.n := rfl
@[simp] theorem store_payBase (i : BitVec 6) (p : Pixel) : (store i p s).payBase = s.payBase := rfl
@[simp] theorem store_payLen (i : BitVec 6) (p : Pixel) : (store i p s).payLen = s.payLen := rfl
@[simp] theorem store_cmd (i : BitVec 6) (p : Pixel) : (store i p s).cmd = s.cmd := rfl
@[simp] theorem store_stage (i : BitVec 6) (p : Pixel) : (store i p s).stage = s.stage := rfl
@[simp] theorem store_draws (i : BitVec 6) (p : Pixel) : (store i p s).draws = s.draws := rfl
@[simp] theorem store_turns (i : BitVec 6) (p : Pixel) : (store i p s).turns = s.turns := rfl

/-! ## refresh -/

@[simp] theorem refresh_cfg : (refresh s).cfg = s.cfg := rfl
@[simp] theorem refresh_phase : (refresh s).phase = s.phase := rfl
@[simp] theorem refresh_err : (refresh s).err = s.err := rfl
@[simp] theorem refresh_outLen : (refresh s).outLen = s.outLen := rfl
@[simp] theorem refresh_hdr : (refresh s).hdr = s.hdr := rfl
@[simp] theorem refresh_inBuf : (refresh s).inBuf = s.inBuf := rfl
@[simp] theorem refresh_outBuf : (refresh s).outBuf = s.outBuf := rfl
@[simp] theorem refresh_pixIn : (refresh s).pixIn = s.pixIn := rfl
@[simp] theorem refresh_pixOut : (refresh s).pixOut = s.pixOut := rfl
@[simp] theorem refresh_prev : (refresh s).prev = s.prev := rfl
@[simp] theorem refresh_cache : (refresh s).cache = cacheStore s.cache (hash s.cfg.hashCoeffs s.prev) s.prev := rfl
@[simp] theorem refresh_inPos : (refresh s).inPos = s.inPos := rfl
@[simp] theorem refresh_outPos : (refresh s).outPos = s.outPos := rfl
@[simp] theorem refresh_pixPos : (refresh s).pixPos = s.pixPos := rfl
@[simp] theorem refresh_run : (refresh s).run = s.run := rfl
@[simp] theorem refresh_out : (refresh s).out = s.out := rfl
@[simp] theorem refresh_latch : (refresh s).latch = s.latch := rfl
@[simp] theorem refresh_n : (refresh s).n = s.n := rfl
@[simp] theorem refresh_payBase : (refresh s).payBase = s.payBase := rfl
@[simp] theorem refresh_payLen : (refresh s).payLen = s.payLen := rfl
@[simp] theorem refresh_cmd : (refresh s).cmd = s.cmd := rfl
@[simp] theorem refresh_stage : (refresh s).stage = s.stage := rfl
@[simp] theorem refresh_draws : (refresh s).draws = s.draws := rfl
@[simp] theorem refresh_turns : (refresh s).turns = s.turns := rfl

/-! ## put -/

@[simp] theorem put_cfg (p : Pixel) : (put p s).cfg = s.cfg := rfl
@[simp] theorem put_phase (p : Pixel) : (put p s).phase = s.phase := rfl
@[simp] theorem put_err (p : Pixel) : (put p s).err = s.err := rfl
@[simp] theorem put_outLen (p : Pixel) : (put p s).outLen = s.outLen := rfl
@[simp] theorem put_hdr (p : Pixel) : (put p s).hdr = s.hdr := rfl
@[simp] theorem put_inBuf (p : Pixel) : (put p s).inBuf = s.inBuf := rfl
@[simp] theorem put_outBuf (p : Pixel) : (put p s).outBuf = s.outBuf := rfl
@[simp] theorem put_pixIn (p : Pixel) : (put p s).pixIn = s.pixIn := rfl
@[simp] theorem put_pixOut (p : Pixel) : (put p s).pixOut = Buffer.write s.pixOut s.outPos p := rfl
@[simp] theorem put_prev (p : Pixel) : (put p s).prev = p := rfl
@[simp] theorem put_cache (p : Pixel) : (put p s).cache = s.cache := rfl
@[simp] theorem put_inPos (p : Pixel) : (put p s).inPos = s.inPos := rfl
@[simp] theorem put_outPos (p : Pixel) : (put p s).outPos = s.outPos + 1 := rfl
@[simp] theorem put_pixPos (p : Pixel) : (put p s).pixPos = s.pixPos := rfl
@[simp] theorem put_run (p : Pixel) : (put p s).run = s.run := rfl
@[simp] theorem put_out (p : Pixel) : (put p s).out = s.out := rfl
@[simp] theorem put_latch (p : Pixel) : (put p s).latch = s.latch := rfl
@[simp] theorem put_n (p : Pixel) : (put p s).n = s.n := rfl
@[simp] theorem put_payBase (p : Pixel) : (put p s).payBase = s.payBase := rfl
@[simp] theorem put_payLen (p : Pixel) : (put p s).payLen = s.payLen := rfl
@[simp] theorem put_cmd (p : Pixel) : (put p s).cmd = s.cmd := rfl
@[simp] theorem put_stage (p : Pixel) : (put p s).stage = s.stage := rfl
@[simp] theorem put_draws (p : Pixel) : (put p s).draws = s.draws := rfl
@[simp] theorem put_turns (p : Pixel) : (put p s).turns = s.turns := rfl

/-! ## putRun -/

@[simp] theorem putRun_cfg (c : Nat) : (putRun c s).cfg = s.cfg := rfl
@[simp] theorem putRun_phase (c : Nat) : (putRun c s).phase = s.phase := rfl
@[simp] theorem putRun_err (c : Nat) : (putRun c s).err = s.err := rfl
@[simp] theorem putRun_outLen (c : Nat) : (putRun c s).outLen = s.outLen := rfl
@[simp] theorem putRun_hdr (c : Nat) : (putRun c s).hdr = s.hdr := rfl
@[simp] theorem putRun_inBuf (c : Nat) : (putRun c s).inBuf = s.inBuf := rfl
@[simp] theorem putRun_outBuf (c : Nat) : (putRun c s).outBuf = s.outBuf := rfl
@[simp] theorem putRun_pixIn (c : Nat) : (putRun c s).pixIn = s.pixIn := rfl
@[simp] theorem putRun_pixOut (c : Nat) : (putRun c s).pixOut = Buffer.writeN s.pixOut s.outPos (List.replicate c s.prev) := rfl
@[simp] theorem putRun_prev (c : Nat) : (putRun c s).prev = s.prev := rfl
@[simp] theorem putRun_cache (c : Nat) : (putRun c s).cache = s.cache := rfl
@[simp] theorem putRun_inPos (c : Nat) : (putRun c s).inPos = s.inPos := rfl
@[simp] theorem putRun_outPos (c : Nat) : (putRun c s).outPos = s.outPos + c := rfl
@[simp] theorem putRun_pixPos (c : Nat) : (putRun c s).pixPos = s.pixPos := rfl
@[simp] theorem putRun_run (c : Nat) : (putRun c s).run = s.run := rfl
@[simp] theorem putRun_out (c : Nat) : (putRun c s).out = s.out := rfl
@[simp] theorem putRun_latch (c : Nat) : (putRun c s).latch = s.latch := rfl
@[simp] theorem putRun_n (c : Nat) : (putRun c s).n = s.n := rfl
@[simp] theorem putRun_payBase (c : Nat) : (putRun c s).payBase = s.payBase := rfl
@[simp] theorem putRun_payLen (c : Nat) : (putRun c s).payLen = s.payLen := rfl
@[simp] theorem putRun_cmd (c : Nat) : (putRun c s).cmd = s.cmd := rfl
@[simp] theorem putRun_stage (c : Nat) : (putRun c s).stage = s.stage := rfl
@[simp] theorem putRun_draws (c : Nat) : (putRun c s).draws = s.draws := rfl
@[simp] theorem putRun_turns (c : Nat) : (putRun c s).turns = s.turns := rfl

/-! ## advance -/

@[simp] theorem advance_cfg (k : Nat) : (advance k s).cfg = s.cfg := rfl
@[simp] theorem advance_phase (k : Nat) : (advance k s).phase = s.phase := rfl
@[simp] theorem advance_err (k : Nat) : (advance k s).err = s.err := rfl
@[simp] theorem advance_outLen (k : Nat) : (advance k s).outLen = s.outLen := rfl
@[simp] theorem advance_hdr (k : Nat) : (advance k s).hdr = s.hdr := rfl
@[simp] theorem advance_inBuf (k : Nat) : (advance k s).inBuf = s.inBuf := rfl
@[simp] theorem advance_outBuf (k : Nat) : (advance k s).outBuf = s.outBuf := rfl
@[simp] theorem advance_pixIn (k : Nat) : (advance k s).pixIn = s.pixIn := rfl
@[simp] theorem advance_pixOut (k : Nat) : (advance k s).pixOut = s.pixOut := rfl
@[simp] theorem advance_prev (k : Nat) : (advance k s).prev = s.prev := rfl
@[simp] theorem advance_cache (k : Nat) : (advance k s).cache = s.cache := rfl
@[simp] theorem advance_inPos (k : Nat) : (advance k s).inPos = s.inPos + k := rfl
@[simp] theorem advance_outPos (k : Nat) : (advance k s).outPos = s.outPos := rfl
@[simp] theorem advance_pixPos (k : Nat) : (advance k s).pixPos = s.pixPos := rfl
@[simp] theorem advance_run (k : Nat) : (advance k s).run = s.run := rfl
@[simp] theorem advance_out (k : Nat) : (advance k s).out = s.out := rfl
@[simp] theorem advance_latch (k : Nat) : (advance k s).latch = s.latch := rfl
@[simp] theorem advance_n (k : Nat) : (advance k s).n = s.n := rfl
@[simp] theorem advance_payBase (k : Nat) : (advance k s).payBase = s.payBase := rfl
@[simp] theorem advance_payLen (k : Nat) : (advance k s).payLen = s.payLen := rfl
@[simp] theorem advance_cmd (k : Nat) : (advance k s).cmd = s.cmd := rfl
@[simp] theorem advance_stage (k : Nat) : (advance k s).stage = s.stage := rfl
@[simp] theorem advance_draws (k : Nat) : (advance k s).draws = s.draws := rfl
@[simp] theorem advance_turns (k : Nat) : (advance k s).turns = s.turns := rfl

/-! ## writeOut -/

@[simp] theorem writeOut_cfg (bs : List Byte) : (writeOut bs s).cfg = s.cfg := rfl
@[simp] theorem writeOut_phase (bs : List Byte) : (writeOut bs s).phase = s.phase := rfl
@[simp] theorem writeOut_err (bs : List Byte) : (writeOut bs s).err = s.err := rfl
@[simp] theorem writeOut_outLen (bs : List Byte) : (writeOut bs s).outLen = s.outLen := rfl
@[simp] theorem writeOut_hdr (bs : List Byte) : (writeOut bs s).hdr = s.hdr := rfl
@[simp] theorem writeOut_inBuf (bs : List Byte) : (writeOut bs s).inBuf = s.inBuf := rfl
@[simp] theorem writeOut_outBuf (bs : List Byte) : (writeOut bs s).outBuf = Buffer.writeN s.outBuf (Buffer.size s.outBuf) bs := rfl
@[simp] theorem writeOut_pixIn (bs : List Byte) : (writeOut bs s).pixIn = s.pixIn := rfl
@[simp] theorem writeOut_pixOut (bs : List Byte) : (writeOut bs s).pixOut = s.pixOut := rfl
@[simp] theorem writeOut_prev (bs : List Byte) : (writeOut bs s).prev = s.prev := rfl
@[simp] theorem writeOut_cache (bs : List Byte) : (writeOut bs s).cache = s.cache := rfl
@[simp] theorem writeOut_inPos (bs : List Byte) : (writeOut bs s).inPos = s.inPos := rfl
@[simp] theorem writeOut_outPos (bs : List Byte) : (writeOut bs s).outPos = s.outPos := rfl
@[simp] theorem writeOut_pixPos (bs : List Byte) : (writeOut bs s).pixPos = s.pixPos := rfl
@[simp] theorem writeOut_run (bs : List Byte) : (writeOut bs s).run = s.run := rfl
@[simp] theorem writeOut_out (bs : List Byte) : (writeOut bs s).out = s.out := rfl
@[simp] theorem writeOut_latch (bs : List Byte) : (writeOut bs s).latch = s.latch := rfl
@[simp] theorem writeOut_n (bs : List Byte) : (writeOut bs s).n = s.n := rfl
@[simp] theorem writeOut_payBase (bs : List Byte) : (writeOut bs s).payBase = s.payBase := rfl
@[simp] theorem writeOut_payLen (bs : List Byte) : (writeOut bs s).payLen = s.payLen := rfl
@[simp] theorem writeOut_cmd (bs : List Byte) : (writeOut bs s).cmd = s.cmd := rfl
@[simp] theorem writeOut_stage (bs : List Byte) : (writeOut bs s).stage = s.stage := rfl
@[simp] theorem writeOut_draws (bs : List Byte) : (writeOut bs s).draws = s.draws := rfl
@[simp] theorem writeOut_turns (bs : List Byte) : (writeOut bs s).turns = s.turns := rfl

/-! ## emit -/

@[simp] theorem emit_cfg (bs : List Byte) : (emit bs s).cfg = s.cfg := rfl
@[simp] theorem emit_phase (bs : List Byte) : (emit bs s).phase = s.phase := rfl
@[simp] theorem emit_err (bs : List Byte) : (emit bs s).err = s.err := rfl
@[simp] theorem emit_outLen (bs : List Byte) : (emit bs s).outLen = s.outLen := rfl
@[simp] theorem emit_hdr (bs : List Byte) : (emit bs s).hdr = s.hdr := rfl
@[simp] theorem emit_inBuf (bs : List Byte) : (emit bs s).inBuf = s.inBuf := rfl
@[simp] theorem emit_outBuf (bs : List Byte) : (emit bs s).outBuf = Buffer.writeN s.outBuf (Buffer.size s.outBuf) bs := rfl
@[simp] theorem emit_pixIn (bs : List Byte) : (emit bs s).pixIn = s.pixIn := rfl
@[simp] theorem emit_pixOut (bs : List Byte) : (emit bs s).pixOut = s.pixOut := rfl
@[simp] theorem emit_prev (bs : List Byte) : (emit bs s).prev = s.prev := rfl
@[simp] theorem emit_cache (bs : List Byte) : (emit bs s).cache = s.cache := rfl
@[simp] theorem emit_inPos (bs : List Byte) : (emit bs s).inPos = s.inPos := rfl
@[simp] theorem emit_outPos (bs : List Byte) : (emit bs s).outPos = s.outPos := rfl
@[simp] theorem emit_pixPos (bs : List Byte) : (emit bs s).pixPos = s.pixPos := rfl
@[simp] theorem emit_run (bs : List Byte) : (emit bs s).run = s.run := rfl
@[simp] theorem emit_out (bs : List Byte) : (emit bs s).out = s.out ++ bs := rfl
@[simp] theorem emit_latch (bs : List Byte) : (emit bs s).latch = s.latch := rfl
@[simp] theorem emit_n (bs : List Byte) : (emit bs s).n = s.n := rfl
@[simp] theorem emit_payBase (bs : List Byte) : (emit bs s).payBase = s.payBase := rfl
@[simp] theorem emit_payLen (bs : List Byte) : (emit bs s).payLen = s.payLen := rfl
@[simp] theorem emit_cmd (bs : List Byte) : (emit bs s).cmd = s.cmd := rfl
@[simp] theorem emit_stage (bs : List Byte) : (emit bs s).stage = s.stage := rfl
@[simp] theorem emit_draws (bs : List Byte) : (emit bs s).draws = s.draws := rfl
@[simp] theorem emit_turns (bs : List Byte) : (emit bs s).turns = s.turns := rfl

/-! ## discard -/

@[simp] theorem discard_cfg : (discard s).cfg = s.cfg := rfl
@[simp] theorem discard_phase : (discard s).phase = s.phase := rfl
@[simp] theorem discard_err : (discard s).err = s.err := rfl
@[simp] theorem discard_outLen : (discard s).outLen = s.outLen := rfl
@[simp] theorem discard_hdr : (discard s).hdr = s.hdr := rfl
@[simp] theorem discard_inBuf : (discard s).inBuf = s.inBuf := rfl
@[simp] theorem discard_outBuf : (discard s).outBuf = s.outBuf := rfl
@[simp] theorem discard_pixIn : (discard s).pixIn = s.pixIn := rfl
@[simp] theorem discard_pixOut : (discard s).pixOut = s.pixOut := rfl
@[simp] theorem discard_prev : (discard s).prev = Config.freePixel s.draws := rfl
@[simp] theorem discard_cache : (discard s).cache = Config.freeCache s.draws := rfl
@[simp] theorem discard_inPos : (discard s).inPos = Config.freeNat s.draws 0 := rfl
@[simp] theorem discard_outPos : (discard s).outPos = Config.freeNat s.draws 1 := rfl
@[simp] theorem discard_pixPos : (discard s).pixPos = Config.freeNat s.draws 2 := rfl
@[simp] theorem discard_run : (discard s).run = Config.freeNat s.draws 3 := rfl
@[simp] theorem discard_out : (discard s).out = Config.freeBytes s.draws := rfl
@[simp] theorem discard_latch : (discard s).latch = Config.freeHeader s.draws := rfl
@[simp] theorem discard_n : (discard s).n = Config.freeNat s.draws 4 := rfl
@[simp] theorem discard_payBase : (discard s).payBase = Config.freeNat s.draws 5 := rfl
@[simp] theorem discard_payLen : (discard s).payLen = Config.freeNat s.draws 6 := rfl
@[simp] theorem discard_cmd : (discard s).cmd = s.cmd := rfl
@[simp] theorem discard_stage : (discard s).stage = s.stage := rfl
@[simp] theorem discard_draws : (discard s).draws = s.draws + 1 := rfl
@[simp] theorem discard_turns : (discard s).turns = s.turns := rfl

/-! ## loseOutputs -/

@[simp] theorem loseOutputs_cfg : (loseOutputs s).cfg = s.cfg := rfl
@[simp] theorem loseOutputs_phase : (loseOutputs s).phase = s.phase := rfl
@[simp] theorem loseOutputs_err : (loseOutputs s).err = s.err := rfl
@[simp] theorem loseOutputs_outLen : (loseOutputs s).outLen = s.outLen := rfl
@[simp] theorem loseOutputs_hdr : (loseOutputs s).hdr = s.hdr := rfl
@[simp] theorem loseOutputs_inBuf : (loseOutputs s).inBuf = s.inBuf := rfl
@[simp] theorem loseOutputs_outBuf : (loseOutputs s).outBuf = Buffer.ofList (Config.freeOut s.draws) := rfl
@[simp] theorem loseOutputs_pixIn : (loseOutputs s).pixIn = s.pixIn := rfl
@[simp] theorem loseOutputs_pixOut : (loseOutputs s).pixOut = Buffer.ofList (Config.freePixOut s.draws) := rfl
@[simp] theorem loseOutputs_prev : (loseOutputs s).prev = s.prev := rfl
@[simp] theorem loseOutputs_cache : (loseOutputs s).cache = s.cache := rfl
@[simp] theorem loseOutputs_inPos : (loseOutputs s).inPos = s.inPos := rfl
@[simp] theorem loseOutputs_outPos : (loseOutputs s).outPos = s.outPos := rfl
@[simp] theorem loseOutputs_pixPos : (loseOutputs s).pixPos = s.pixPos := rfl
@[simp] theorem loseOutputs_run : (loseOutputs s).run = s.run := rfl
@[simp] theorem loseOutputs_out : (loseOutputs s).out = s.out := rfl
@[simp] theorem loseOutputs_latch : (loseOutputs s).latch = s.latch := rfl
@[simp] theorem loseOutputs_n : (loseOutputs s).n = s.n := rfl
@[simp] theorem loseOutputs_payBase : (loseOutputs s).payBase = s.payBase := rfl
@[simp] theorem loseOutputs_payLen : (loseOutputs s).payLen = s.payLen := rfl
@[simp] theorem loseOutputs_cmd : (loseOutputs s).cmd = s.cmd := rfl
@[simp] theorem loseOutputs_stage : (loseOutputs s).stage = s.stage := rfl
@[simp] theorem loseOutputs_draws : (loseOutputs s).draws = s.draws := rfl
@[simp] theorem loseOutputs_turns : (loseOutputs s).turns = s.turns := rfl

/-! ## raise -/

@[simp] theorem raise_cfg (e : ErrCode) : (raise e s).cfg = s.cfg := rfl
@[simp] theorem raise_phase (e : ErrCode) : (raise e s).phase = .error := rfl
@[simp] theorem raise_err (e : ErrCode) : (raise e s).err = e := rfl
@[simp] theorem raise_outLen (e : ErrCode) : (raise e s).outLen = none := rfl
@[simp] theorem raise_hdr (e : ErrCode) : (raise e s).hdr = none := rfl
@[simp] theorem raise_inBuf (e : ErrCode) : (raise e s).inBuf = s.inBuf := rfl
@[simp] theorem raise_outBuf (e : ErrCode) : (raise e s).outBuf = Buffer.ofList (Config.freeOut s.draws) := rfl
@[simp] theorem raise_pixIn (e : ErrCode) : (raise e s).pixIn = s.pixIn := rfl
@[simp] theorem raise_pixOut (e : ErrCode) : (raise e s).pixOut = Buffer.ofList (Config.freePixOut s.draws) := rfl
@[simp] theorem raise_prev (e : ErrCode) : (raise e s).prev = Config.freePixel s.draws := rfl
@[simp] theorem raise_cache (e : ErrCode) : (raise e s).cache = Config.freeCache s.draws := rfl
@[simp] theorem raise_inPos (e : ErrCode) : (raise e s).inPos = Config.freeNat s.draws 0 := rfl
@[simp] theorem raise_outPos (e : ErrCode) : (raise e s).outPos = Config.freeNat s.draws 1 := rfl
@[simp] theorem raise_pixPos (e : ErrCode) : (raise e s).pixPos = Config.freeNat s.draws 2 := rfl
@[simp] theorem raise_run (e : ErrCode) : (raise e s).run = Config.freeNat s.draws 3 := rfl
@[simp] theorem raise_out (e : ErrCode) : (raise e s).out = Config.freeBytes s.draws := rfl
@[simp] theorem raise_latch (e : ErrCode) : (raise e s).latch = Config.freeHeader s.draws := rfl
@[simp] theorem raise_n (e : ErrCode) : (raise e s).n = Config.freeNat s.draws 4 := rfl
@[simp] theorem raise_payBase (e : ErrCode) : (raise e s).payBase = Config.freeNat s.draws 5 := rfl
@[simp] theorem raise_payLen (e : ErrCode) : (raise e s).payLen = Config.freeNat s.draws 6 := rfl
@[simp] theorem raise_cmd (e : ErrCode) : (raise e s).cmd = s.cmd := rfl
@[simp] theorem raise_stage (e : ErrCode) : (raise e s).stage = s.stage := rfl
@[simp] theorem raise_draws (e : ErrCode) : (raise e s).draws = s.draws + 1 := rfl
@[simp] theorem raise_turns (e : ErrCode) : (raise e s).turns = s.turns := rfl

/-! ## complete -/

@[simp] theorem complete_cfg (len : Option Nat) (h : Option Header) : (complete len h s).cfg = s.cfg := rfl
@[simp] theorem complete_phase (len : Option Nat) (h : Option Header) : (complete len h s).phase = .done := rfl
@[simp] theorem complete_err (len : Option Nat) (h : Option Header) : (complete len h s).err = .none := rfl
@[simp] theorem complete_outLen (len : Option Nat) (h : Option Header) : (complete len h s).outLen = len := rfl
@[simp] theorem complete_hdr (len : Option Nat) (h : Option Header) : (complete len h s).hdr = h := rfl
@[simp] theorem complete_inBuf (len : Option Nat) (h : Option Header) : (complete len h s).inBuf = s.inBuf := rfl
@[simp] theorem complete_outBuf (len : Option Nat) (h : Option Header) : (complete len h s).outBuf = s.outBuf := rfl
@[simp] theorem complete_pixIn (len : Option Nat) (h : Option Header) : (complete len h s).pixIn = s.pixIn := rfl
@[simp] theorem complete_pixOut (len : Option Nat) (h : Option Header) : (complete len h s).pixOut = s.pixOut := rfl
@[simp] theorem complete_prev (len : Option Nat) (h : Option Header) : (complete len h s).prev = Config.freePixel s.draws := rfl
@[simp] theorem complete_cache (len : Option Nat) (h : Option Header) : (complete len h s).cache = Config.freeCache s.draws := rfl
@[simp] theorem complete_inPos (len : Option Nat) (h : Option Header) : (complete len h s).inPos = Config.freeNat s.draws 0 := rfl
@[simp] theorem complete_outPos (len : Option Nat) (h : Option Header) : (complete len h s).outPos = Config.freeNat s.draws 1 := rfl
@[simp] theorem complete_pixPos (len : Option Nat) (h : Option Header) : (complete len h s).pixPos = Config.freeNat s.draws 2 := rfl
@[simp] theorem complete_run (len : Option Nat) (h : Option Header) : (complete len h s).run = Config.freeNat s.draws 3 := rfl
@[simp] theorem complete_out (len : Option Nat) (h : Option Header) : (complete len h s).out = Config.freeBytes s.draws := rfl
@[simp] theorem complete_latch (len : Option Nat) (h : Option Header) : (complete len h s).latch = Config.freeHeader s.draws := rfl
@[simp] theorem complete_n (len : Option Nat) (h : Option Header) : (complete len h s).n = Config.freeNat s.draws 4 := rfl
@[simp] theorem complete_payBase (len : Option Nat) (h : Option Header) : (complete len h s).payBase = Config.freeNat s.draws 5 := rfl
@[simp] theorem complete_payLen (len : Option Nat) (h : Option Header) : (complete len h s).payLen = Config.freeNat s.draws 6 := rfl
@[simp] theorem complete_cmd (len : Option Nat) (h : Option Header) : (complete len h s).cmd = s.cmd := rfl
@[simp] theorem complete_stage (len : Option Nat) (h : Option Header) : (complete len h s).stage = s.stage := rfl
@[simp] theorem complete_draws (len : Option Nat) (h : Option Header) : (complete len h s).draws = s.draws + 1 := rfl
@[simp] theorem complete_turns (len : Option Nat) (h : Option Header) : (complete len h s).turns = s.turns := rfl

/-! ## initDecode -/

@[simp] theorem initDecode_cfg (base len count : Nat) : (initDecode base len count s).cfg = s.cfg := rfl
@[simp] theorem initDecode_phase (base len count : Nat) : (initDecode base len count s).phase = s.phase := rfl
@[simp] theorem initDecode_err (base len count : Nat) : (initDecode base len count s).err = s.err := rfl
@[simp] theorem initDecode_outLen (base len count : Nat) : (initDecode base len count s).outLen = s.outLen := rfl
@[simp] theorem initDecode_hdr (base len count : Nat) : (initDecode base len count s).hdr = s.hdr := rfl
@[simp] theorem initDecode_inBuf (base len count : Nat) : (initDecode base len count s).inBuf = s.inBuf := rfl
@[simp] theorem initDecode_outBuf (base len count : Nat) : (initDecode base len count s).outBuf = s.outBuf := rfl
@[simp] theorem initDecode_pixIn (base len count : Nat) : (initDecode base len count s).pixIn = s.pixIn := rfl
@[simp] theorem initDecode_pixOut (base len count : Nat) : (initDecode base len count s).pixOut = [] := rfl
@[simp] theorem initDecode_prev (base len count : Nat) : (initDecode base len count s).prev = s.cfg.seedPixel := rfl
@[simp] theorem initDecode_cache (base len count : Nat) : (initDecode base len count s).cache = Vector.replicate 64 Pixel.zero := rfl
@[simp] theorem initDecode_inPos (base len count : Nat) : (initDecode base len count s).inPos = 0 := rfl
@[simp] theorem initDecode_outPos (base len count : Nat) : (initDecode base len count s).outPos = 0 := rfl
@[simp] theorem initDecode_pixPos (base len count : Nat) : (initDecode base len count s).pixPos = s.pixPos := rfl
@[simp] theorem initDecode_run (base len count : Nat) : (initDecode base len count s).run = s.run := rfl
@[simp] theorem initDecode_out (base len count : Nat) : (initDecode base len count s).out = s.out := rfl
@[simp] theorem initDecode_latch (base len count : Nat) : (initDecode base len count s).latch = s.latch := rfl
@[simp] theorem initDecode_n (base len count : Nat) : (initDecode base len count s).n = count := rfl
@[simp] theorem initDecode_payBase (base len count : Nat) : (initDecode base len count s).payBase = base := rfl
@[simp] theorem initDecode_payLen (base len count : Nat) : (initDecode base len count s).payLen = len := rfl
@[simp] theorem initDecode_cmd (base len count : Nat) : (initDecode base len count s).cmd = s.cmd := rfl
@[simp] theorem initDecode_stage (base len count : Nat) : (initDecode base len count s).stage = .decode := rfl
@[simp] theorem initDecode_draws (base len count : Nat) : (initDecode base len count s).draws = s.draws := rfl
@[simp] theorem initDecode_turns (base len count : Nat) : (initDecode base len count s).turns = s.turns := rfl

/-! ## initEncode -/

@[simp] theorem initEncode_cfg (count : Nat) : (initEncode count s).cfg = s.cfg := rfl
@[simp] theorem initEncode_phase (count : Nat) : (initEncode count s).phase = s.phase := rfl
@[simp] theorem initEncode_err (count : Nat) : (initEncode count s).err = s.err := rfl
@[simp] theorem initEncode_outLen (count : Nat) : (initEncode count s).outLen = s.outLen := rfl
@[simp] theorem initEncode_hdr (count : Nat) : (initEncode count s).hdr = s.hdr := rfl
@[simp] theorem initEncode_inBuf (count : Nat) : (initEncode count s).inBuf = s.inBuf := rfl
@[simp] theorem initEncode_outBuf (count : Nat) : (initEncode count s).outBuf = s.outBuf := rfl
@[simp] theorem initEncode_pixIn (count : Nat) : (initEncode count s).pixIn = s.pixIn := rfl
@[simp] theorem initEncode_pixOut (count : Nat) : (initEncode count s).pixOut = s.pixOut := rfl
@[simp] theorem initEncode_prev (count : Nat) : (initEncode count s).prev = s.cfg.seedPixel := rfl
@[simp] theorem initEncode_cache (count : Nat) : (initEncode count s).cache = Vector.replicate 64 Pixel.zero := rfl
@[simp] theorem initEncode_inPos (count : Nat) : (initEncode count s).inPos = s.inPos := rfl
@[simp] theorem initEncode_outPos (count : Nat) : (initEncode count s).outPos = s.outPos := rfl
@[simp] theorem initEncode_pixPos (count : Nat) : (initEncode count s).pixPos = 0 := rfl
@[simp] theorem initEncode_run (count : Nat) : (initEncode count s).run = 0 := rfl
@[simp] theorem initEncode_out (count : Nat) : (initEncode count s).out = [] := rfl
@[simp] theorem initEncode_latch (count : Nat) : (initEncode count s).latch = s.latch := rfl
@[simp] theorem initEncode_n (count : Nat) : (initEncode count s).n = count := rfl
@[simp] theorem initEncode_payBase (count : Nat) : (initEncode count s).payBase = s.payBase := rfl
@[simp] theorem initEncode_payLen (count : Nat) : (initEncode count s).payLen = s.payLen := rfl
@[simp] theorem initEncode_cmd (count : Nat) : (initEncode count s).cmd = s.cmd := rfl
@[simp] theorem initEncode_stage (count : Nat) : (initEncode count s).stage = .encode := rfl
@[simp] theorem initEncode_draws (count : Nat) : (initEncode count s).draws = s.draws := rfl
@[simp] theorem initEncode_turns (count : Nat) : (initEncode count s).turns = s.turns := rfl

/-! ## clearOut -/

@[simp] theorem clearOut_cfg : (clearOut s).cfg = s.cfg := rfl
@[simp] theorem clearOut_phase : (clearOut s).phase = s.phase := rfl
@[simp] theorem clearOut_err : (clearOut s).err = s.err := rfl
@[simp] theorem clearOut_outLen : (clearOut s).outLen = s.outLen := rfl
@[simp] theorem clearOut_hdr : (clearOut s).hdr = s.hdr := rfl
@[simp] theorem clearOut_inBuf : (clearOut s).inBuf = s.inBuf := rfl
@[simp] theorem clearOut_outBuf : (clearOut s).outBuf = [] := rfl
@[simp] theorem clearOut_pixIn : (clearOut s).pixIn = s.pixIn := rfl
@[simp] theorem clearOut_pixOut : (clearOut s).pixOut = s.pixOut := rfl
@[simp] theorem clearOut_prev : (clearOut s).prev = s.prev := rfl
@[simp] theorem clearOut_cache : (clearOut s).cache = s.cache := rfl
@[simp] theorem clearOut_inPos : (clearOut s).inPos = s.inPos := rfl
@[simp] theorem clearOut_outPos : (clearOut s).outPos = s.outPos := rfl
@[simp] theorem clearOut_pixPos : (clearOut s).pixPos = s.pixPos := rfl
@[simp] theorem clearOut_run : (clearOut s).run = s.run := rfl
@[simp] theorem clearOut_out : (clearOut s).out = s.out := rfl
@[simp] theorem clearOut_latch : (clearOut s).latch = s.latch := rfl
@[simp] theorem clearOut_n : (clearOut s).n = s.n := rfl
@[simp] theorem clearOut_payBase : (clearOut s).payBase = s.payBase := rfl
@[simp] theorem clearOut_payLen : (clearOut s).payLen = s.payLen := rfl
@[simp] theorem clearOut_cmd : (clearOut s).cmd = s.cmd := rfl
@[simp] theorem clearOut_stage : (clearOut s).stage = s.stage := rfl
@[simp] theorem clearOut_draws : (clearOut s).draws = s.draws := rfl
@[simp] theorem clearOut_turns : (clearOut s).turns = s.turns := rfl

/-! ## setLatch -/

@[simp] theorem setLatch_cfg (h : Header) : (setLatch h s).cfg = s.cfg := rfl
@[simp] theorem setLatch_phase (h : Header) : (setLatch h s).phase = s.phase := rfl
@[simp] theorem setLatch_err (h : Header) : (setLatch h s).err = s.err := rfl
@[simp] theorem setLatch_outLen (h : Header) : (setLatch h s).outLen = s.outLen := rfl
@[simp] theorem setLatch_hdr (h : Header) : (setLatch h s).hdr = s.hdr := rfl
@[simp] theorem setLatch_inBuf (h : Header) : (setLatch h s).inBuf = s.inBuf := rfl
@[simp] theorem setLatch_outBuf (h : Header) : (setLatch h s).outBuf = s.outBuf := rfl
@[simp] theorem setLatch_pixIn (h : Header) : (setLatch h s).pixIn = s.pixIn := rfl
@[simp] theorem setLatch_pixOut (h : Header) : (setLatch h s).pixOut = s.pixOut := rfl
@[simp] theorem setLatch_prev (h : Header) : (setLatch h s).prev = s.prev := rfl
@[simp] theorem setLatch_cache (h : Header) : (setLatch h s).cache = s.cache := rfl
@[simp] theorem setLatch_inPos (h : Header) : (setLatch h s).inPos = s.inPos := rfl
@[simp] theorem setLatch_outPos (h : Header) : (setLatch h s).outPos = s.outPos := rfl
@[simp] theorem setLatch_pixPos (h : Header) : (setLatch h s).pixPos = s.pixPos := rfl
@[simp] theorem setLatch_run (h : Header) : (setLatch h s).run = s.run := rfl
@[simp] theorem setLatch_out (h : Header) : (setLatch h s).out = s.out := rfl
@[simp] theorem setLatch_latch (h : Header) : (setLatch h s).latch = h := rfl
@[simp] theorem setLatch_n (h : Header) : (setLatch h s).n = s.n := rfl
@[simp] theorem setLatch_payBase (h : Header) : (setLatch h s).payBase = s.payBase := rfl
@[simp] theorem setLatch_payLen (h : Header) : (setLatch h s).payLen = s.payLen := rfl
@[simp] theorem setLatch_cmd (h : Header) : (setLatch h s).cmd = s.cmd := rfl
@[simp] theorem setLatch_stage (h : Header) : (setLatch h s).stage = s.stage := rfl
@[simp] theorem setLatch_draws (h : Header) : (setLatch h s).draws = s.draws := rfl
@[simp] theorem setLatch_turns (h : Header) : (setLatch h s).turns = s.turns := rfl

/-! ## issueCommand -/

@[simp] theorem issueCommand_cfg (c : Command) : (issueCommand c s).cfg = s.cfg := rfl
@[simp] theorem issueCommand_phase (c : Command) : (issueCommand c s).phase = .busy := rfl
@[simp] theorem issueCommand_err (c : Command) : (issueCommand c s).err = .none := rfl
@[simp] theorem issueCommand_outLen (c : Command) : (issueCommand c s).outLen = none := rfl
@[simp] theorem issueCommand_hdr (c : Command) : (issueCommand c s).hdr = none := rfl
@[simp] theorem issueCommand_inBuf (c : Command) : (issueCommand c s).inBuf = s.inBuf := rfl
@[simp] theorem issueCommand_outBuf (c : Command) : (issueCommand c s).outBuf = s.outBuf := rfl
@[simp] theorem issueCommand_pixIn (c : Command) : (issueCommand c s).pixIn = s.pixIn := rfl
@[simp] theorem issueCommand_pixOut (c : Command) : (issueCommand c s).pixOut = s.pixOut := rfl
@[simp] theorem issueCommand_prev (c : Command) : (issueCommand c s).prev = s.prev := rfl
@[simp] theorem issueCommand_cache (c : Command) : (issueCommand c s).cache = s.cache := rfl
@[simp] theorem issueCommand_inPos (c : Command) : (issueCommand c s).inPos = s.inPos := rfl
@[simp] theorem issueCommand_outPos (c : Command) : (issueCommand c s).outPos = s.outPos := rfl
@[simp] theorem issueCommand_pixPos (c : Command) : (issueCommand c s).pixPos = s.pixPos := rfl
@[simp] theorem issueCommand_run (c : Command) : (issueCommand c s).run = s.run := rfl
@[simp] theorem issueCommand_out (c : Command) : (issueCommand c s).out = s.out := rfl
@[simp] theorem issueCommand_latch (c : Command) : (issueCommand c s).latch = s.latch := rfl
@[simp] theorem issueCommand_n (c : Command) : (issueCommand c s).n = s.n := rfl
@[simp] theorem issueCommand_payBase (c : Command) : (issueCommand c s).payBase = s.payBase := rfl
@[simp] theorem issueCommand_payLen (c : Command) : (issueCommand c s).payLen = s.payLen := rfl
@[simp] theorem issueCommand_cmd (c : Command) : (issueCommand c s).cmd = some c := rfl
@[simp] theorem issueCommand_stage (c : Command) : (issueCommand c s).stage = .start := rfl
@[simp] theorem issueCommand_draws (c : Command) : (issueCommand c s).draws = s.draws := rfl
@[simp] theorem issueCommand_turns (c : Command) : (issueCommand c s).turns = s.turns := rfl

/-! ## resetOutputs and blockReset -/

@[simp] theorem resetOutputs_cfg : (resetOutputs s).cfg = s.cfg := by unfold resetOutputs; split <;> rfl
@[simp] theorem resetOutputs_phase : (resetOutputs s).phase = s.phase := by unfold resetOutputs; split <;> rfl
@[simp] theorem resetOutputs_err : (resetOutputs s).err = s.err := by unfold resetOutputs; split <;> rfl
@[simp] theorem resetOutputs_outLen : (resetOutputs s).outLen = s.outLen := by unfold resetOutputs; split <;> rfl
@[simp] theorem resetOutputs_hdr : (resetOutputs s).hdr = s.hdr := by unfold resetOutputs; split <;> rfl
@[simp] theorem resetOutputs_inBuf : (resetOutputs s).inBuf = s.inBuf := by unfold resetOutputs; split <;> rfl
@[simp] theorem resetOutputs_pixIn : (resetOutputs s).pixIn = s.pixIn := by unfold resetOutputs; split <;> rfl
@[simp] theorem resetOutputs_prev : (resetOutputs s).prev = s.prev := by unfold resetOutputs; split <;> rfl
@[simp] theorem resetOutputs_cache : (resetOutputs s).cache = s.cache := by unfold resetOutputs; split <;> rfl
@[simp] theorem resetOutputs_inPos : (resetOutputs s).inPos = s.inPos := by unfold resetOutputs; split <;> rfl
@[simp] theorem resetOutputs_outPos : (resetOutputs s).outPos = s.outPos := by unfold resetOutputs; split <;> rfl
@[simp] theorem resetOutputs_pixPos : (resetOutputs s).pixPos = s.pixPos := by unfold resetOutputs; split <;> rfl
@[simp] theorem resetOutputs_run : (resetOutputs s).run = s.run := by unfold resetOutputs; split <;> rfl
@[simp] theorem resetOutputs_out : (resetOutputs s).out = s.out := by unfold resetOutputs; split <;> rfl
@[simp] theorem resetOutputs_latch : (resetOutputs s).latch = s.latch := by unfold resetOutputs; split <;> rfl
@[simp] theorem resetOutputs_n : (resetOutputs s).n = s.n := by unfold resetOutputs; split <;> rfl
@[simp] theorem resetOutputs_payBase : (resetOutputs s).payBase = s.payBase := by unfold resetOutputs; split <;> rfl
@[simp] theorem resetOutputs_payLen : (resetOutputs s).payLen = s.payLen := by unfold resetOutputs; split <;> rfl
@[simp] theorem resetOutputs_cmd : (resetOutputs s).cmd = s.cmd := by unfold resetOutputs; split <;> rfl
@[simp] theorem resetOutputs_stage : (resetOutputs s).stage = s.stage := by unfold resetOutputs; split <;> rfl
@[simp] theorem resetOutputs_draws : (resetOutputs s).draws = s.draws := by unfold resetOutputs; split <;> rfl
@[simp] theorem resetOutputs_turns : (resetOutputs s).turns = s.turns := by unfold resetOutputs; split <;> rfl

@[simp] theorem blockReset_cfg : (blockReset s).cfg = s.cfg := by simp [blockReset]
@[simp] theorem blockReset_phase : (blockReset s).phase = .idle := rfl
@[simp] theorem blockReset_err : (blockReset s).err = .none := rfl
@[simp] theorem blockReset_outLen : (blockReset s).outLen = none := rfl
@[simp] theorem blockReset_hdr : (blockReset s).hdr = none := rfl
@[simp] theorem blockReset_inBuf : (blockReset s).inBuf = s.inBuf := by simp [blockReset]
@[simp] theorem blockReset_outBuf : (blockReset s).outBuf = (resetOutputs s).outBuf := rfl
@[simp] theorem blockReset_pixIn : (blockReset s).pixIn = s.pixIn := by simp [blockReset]
@[simp] theorem blockReset_pixOut : (blockReset s).pixOut = (resetOutputs s).pixOut := rfl
@[simp] theorem blockReset_prev : (blockReset s).prev = Config.freePixel s.draws := by simp [blockReset]
@[simp] theorem blockReset_cache : (blockReset s).cache = Config.freeCache s.draws := by simp [blockReset]
@[simp] theorem blockReset_inPos : (blockReset s).inPos = Config.freeNat s.draws 0 := by simp [blockReset]
@[simp] theorem blockReset_outPos : (blockReset s).outPos = Config.freeNat s.draws 1 := by simp [blockReset]
@[simp] theorem blockReset_pixPos : (blockReset s).pixPos = Config.freeNat s.draws 2 := by simp [blockReset]
@[simp] theorem blockReset_run : (blockReset s).run = Config.freeNat s.draws 3 := by simp [blockReset]
@[simp] theorem blockReset_out : (blockReset s).out = Config.freeBytes s.draws := by simp [blockReset]
@[simp] theorem blockReset_latch : (blockReset s).latch = Config.freeHeader s.draws := by simp [blockReset]
@[simp] theorem blockReset_n : (blockReset s).n = Config.freeNat s.draws 4 := by simp [blockReset]
@[simp] theorem blockReset_payBase : (blockReset s).payBase = Config.freeNat s.draws 5 := by simp [blockReset]
@[simp] theorem blockReset_payLen : (blockReset s).payLen = Config.freeNat s.draws 6 := by simp [blockReset]
@[simp] theorem blockReset_cmd : (blockReset s).cmd = none := rfl
@[simp] theorem blockReset_stage : (blockReset s).stage = .start := rfl
@[simp] theorem blockReset_draws : (blockReset s).draws = s.draws + 1 := by simp [blockReset]
@[simp] theorem blockReset_turns : (blockReset s).turns = s.turns := by simp [blockReset]

end Sys2Proof.Machine
end

