-- ==== Sys2Proof/Laws/Steps.lean ====
section
/-!
SUPPORT. What each shared operation of the engine and of the host can do, said once: if it answers a next state, one of
the listed cases holds. Provers cite these instead of unfolding the operations.
-/

namespace Sys2Proof.Machine

/-! ## Checks -/

theorem fitsPosWidth_none {c : Config} (h : c.posWidth = none) (v : Nat) : fitsPosWidth c v = true := by
  simp [fitsPosWidth, h]

theorem overCapacity_none {c : Config} (h : c.maxPixels = none) (v : Nat) : overCapacity c v = false := by
  simp [overCapacity, h]

theorem checkOutLen_next {s t : State} (h : checkOutLen s = .next t) : t = s := by
  unfold checkOutLen at h
  split at h
  · cases h; rfl
  · cases h

theorem checkOutLen_unbounded {s : State} (h : s.cfg.posWidth = none) : checkOutLen s = .next s := by
  simp [checkOutLen, fitsPosWidth_none h]

theorem readIn_next {a len : Nat} {s t : State} {k : List Byte → Result} (h : readIn a len s k = .next t) :
    ∃ bytes, Buffer.readN s.inBuf a len = some bytes ∧ k bytes = .next t := by
  unfold readIn at h
  split at h
  · cases h
  · exact ⟨_, ‹_›, h⟩

theorem startDecode_next {base len count : Nat} {s t : State} (h : startDecode base len count s = .next t) :
    t = initDecode base len count s := by
  unfold startDecode at h
  split at h
  · cases h; rfl
  · cases h

theorem startEncode_next {count : Nat} {s t : State} (h : startEncode count s = .next t) :
    t = initEncode count s := by
  unfold startEncode at h
  split at h
  · exact checkOutLen_next h
  · cases h

/-- The marker check changes nothing but the index of the next free value. -/
theorem afterMarkerCheck_cases (bytes : List Byte) (s : State) :
    afterMarkerCheck bytes s = s ∨ afterMarkerCheck bytes s = { s with draws := s.draws + 1 } := by
  unfold afterMarkerCheck
  split
  · exact .inl rfl
  · split
    · exact .inl rfl
    · exact .inl rfl
    · exact .inr rfl

/-- A marker that matches is accepted under every setting (45 R273). -/
theorem markerAccepted_match (s : State) : markerAccepted s.cfg.endMarker s = true := by simp [markerAccepted]

@[simp] theorem afterMarkerCheck_match (s : State) : afterMarkerCheck s.cfg.endMarker s = s := by simp [afterMarkerCheck]

/-! ## Header -/

/-- A serialized header has 14 bytes, and both metadata bytes were legal. -/
theorem headerEncode_ok {h : Header} {bytes : List Byte} (he : headerEncode h = .ok bytes) :
    legalChannels h.channels = true ∧ legalColorSpace h.colorSpace = true ∧
      bytes = magic ++ be32 h.width ++ be32 h.height ++ [h.channels] ++ [h.colorSpace] := by
  unfold headerEncode at he
  split at he
  · cases he
  · split at he
    · cases he
    · cases he
      simp_all

theorem headerEncode_length {h : Header} {bytes : List Byte} (he : headerEncode h = .ok bytes) :
    bytes.length = headerLen := by
  obtain ⟨-, -, rfl⟩ := headerEncode_ok he
  simp [magic, be32, headerLen]

/-- A header check that fails reports one of the error codes. -/
theorem headerEncode_error {h : Header} {e : ErrCode} (he : headerEncode h = .error e) : e ≠ .none := by
  unfold headerEncode at he
  split at he
  · cases he; simp
  · split at he <;> cases he
    simp

theorem headerDecode_error {bytes : List Byte} {e : ErrCode} (he : headerDecode bytes = .error e) : e ≠ .none := by
  unfold headerDecode at he
  split at he
  · split at he
    · cases he; simp
    · split at he
      · cases he; simp
      · split at he <;> cases he
        simp
  · cases he; simp

/-! ## The start of a command -/

/-- Everything a command's first transition can do when it answers a next state. -/
inductive Started (c : Command) (s t : State) : Prop where
  /-- A check failed, possibly after the end marker's draw. -/
  | aborted (e : ErrCode) (he : e ≠ .none) (h : t = raise e s ∨ t = raise e { s with draws := s.draws + 1 })
  /-- HDR_ENC is done. -/
  | hdrEncDone (hd : Header) (bytes : List Byte) (hc : c = .hdrEnc hd) (he : headerEncode hd = .ok bytes)
      (h : t = complete (some bytes.length) none (writeOut bytes (clearOut s)))
  /-- HDR_DEC is done. -/
  | hdrDecDone (hd : Header) (bytes : List Byte) (hc : c = .hdrDec) (hr : Buffer.readN s.inBuf 0 headerLen = some bytes)
      (hs : Buffer.size s.inBuf = headerLen) (he : headerDecode bytes = .ok hd) (h : t = complete none (some hd) s)
  /-- ENCODE's loop begins. -/
  | encodeBegins (hc : c = .encode) (h : t = initEncode (Buffer.size s.pixIn) (clearOut s))
  /-- DECODE's loop begins. -/
  | decodeBegins (count : Nat) (hc : c = .decode count) (h : t = initDecode 0 (Buffer.size s.inBuf) count s)
  /-- FILE_ENC's encode loop begins, its header in OUT. -/
  | fileEncBegins (hd : Header) (bytes : List Byte) (hc : c = .fileEnc hd) (hs : Buffer.size s.pixIn = pixelCount hd)
      (he : headerEncode hd = .ok bytes)
      (h : t = initEncode (pixelCount hd) (writeOut bytes (clearOut (setLatch hd s))))
  /-- FILE_DEC's decode loop begins on the bytes between header and marker. -/
  | fileDecBegins (hd : Header) (bytes marker : List Byte) (hc : c = .fileDec)
      (hl : headerLen + s.cfg.markerLen ≤ Buffer.size s.inBuf)
      (hr : Buffer.readN s.inBuf 0 headerLen = some bytes) (he : headerDecode bytes = .ok hd)
      (hm : Buffer.readN s.inBuf (Buffer.size s.inBuf - s.cfg.markerLen) s.cfg.markerLen = some marker)
      (ha : markerAccepted marker s = true)
      (h : t = initDecode headerLen (Buffer.size s.inBuf - s.cfg.markerLen - headerLen) (pixelCount hd)
        (setLatch hd (afterMarkerCheck marker s)))

theorem startCommand_next {c : Command} {s t : State} (h : startCommand c s = .next t) : Started c s t := by
  cases c with
  | hdrEnc hd =>
    simp only [startCommand, runHdrEnc] at h
    split at h
    · cases h; exact .aborted _ (headerEncode_error ‹_›) (.inl rfl)
    · split at h
      · cases h; exact .hdrEncDone hd _ rfl ‹_› rfl
      · cases h
  | hdrDec =>
    simp only [startCommand, runHdrDec] at h
    split at h
    · cases h; exact .aborted _ (by simp) (.inl rfl)
    · rename_i hs
      obtain ⟨bytes, hr, hk⟩ := readIn_next h
      split at hk
      · cases hk; exact .aborted _ (headerDecode_error ‹_›) (.inl rfl)
      · cases hk; exact .hdrDecDone _ bytes rfl hr (by simpa using hs) ‹_› rfl
  | encode =>
    simp only [startCommand, startEncodeCmd] at h
    split at h
    · cases h; exact .aborted _ (by simp) (.inl rfl)
    · exact .encodeBegins rfl (startEncode_next h)
  | decode count =>
    simp only [startCommand, startDecodeCmd] at h
    split at h
    · cases h; exact .aborted _ (by simp) (.inl rfl)
    · exact .decodeBegins count rfl (startDecode_next h)
  | fileEnc hd =>
    simp only [startCommand, startFileEnc] at h
    split at h
    · cases h; exact .aborted _ (by simp) (.inl rfl)
    · rename_i hs
      split at h
      · cases h; exact .aborted _ (headerEncode_error ‹_›) (.inl rfl)
      · split at h
        · cases h; exact .aborted _ (by simp) (.inl rfl)
        · exact .fileEncBegins hd _ rfl (by simpa using hs) ‹_› (startEncode_next h)
  | fileDec =>
    simp only [startCommand, startFileDec] at h
    split at h
    · cases h; exact .aborted _ (by simp) (.inl rfl)
    · obtain ⟨bytes, hr, hk⟩ := readIn_next h
      split at hk
      · cases hk; exact .aborted _ (headerDecode_error ‹_›) (.inl rfl)
      · rename_i hd he
        unfold startFileDecBody at hk
        split at hk
        · cases hk; exact .aborted _ (by simp) (.inl rfl)
        · rename_i hl
          split at hk
          · cases hk; exact .aborted _ (by simp) (.inl rfl)
          · obtain ⟨marker, hm, hk⟩ := readIn_next hk
            split at hk
            · exact .fileDecBegins hd bytes marker rfl (by omega) hr he hm ‹_› (startDecode_next hk)
            · cases hk
              rcases afterMarkerCheck_cases marker s with h2 | h2 <;> rw [h2]
              · exact .aborted _ (by simp) (.inl rfl)
              · exact .aborted _ (by simp) (.inr rfl)

/-! ## The loops and their ends -/

theorem execRun_cases (c : Nat) (s : State) :
    s.n < s.outPos + c ∧ execRun c s = .next (raise .runOverflow s) ∨
      s.outPos + c ≤ s.n ∧ execRun c s = .next (advance 1 (putRun c s)) := by
  unfold execRun
  split
  · exact .inl ⟨‹_›, rfl⟩
  · exact .inr ⟨by omega, rfl⟩

/-- What a chunk that completes has done: one pixel put and made `prev`, or a run of `prev` written. -/
inductive Ran (i : Instr) (s t : State) : Prop where
  | one (p : Pixel) (hp : ∀ c, i ≠ .run c) (h : t = advance i.kind.size (put p s))
  | many (c : Nat) (hi : i = .run c) (hn : s.outPos + c ≤ s.n) (h : t = advance 1 (putRun c s))
  | overflow (c : Nat) (hi : i = .run c) (hn : s.n < s.outPos + c) (h : t = raise .runOverflow s)

theorem exec_next {i : Instr} {s t : State} (h : exec i s = .next t) : Ran i s t := by
  cases i with
  | index i => cases h; exact .one _ (by simp) rfl
  | diff dr dg db => cases h; exact .one _ (by simp) rfl
  | luma dg drg dbg => cases h; exact .one _ (by simp) rfl
  | run c =>
    rcases execRun_cases c s with ⟨hn, he⟩ | ⟨hn, he⟩ <;> (simp only [exec, he] at h; cases h)
    · exact .overflow c rfl hn rfl
    · exact .many c rfl hn rfl
  | rgb r g b => cases h; exact .one _ (by simp) rfl
  | rgba r g b a => cases h; exact .one _ (by simp) rfl

/-- No chunk faults or is refused. -/
theorem exec_isNext (i : Instr) (s : State) : ∃ t, exec i s = .next t := by
  cases i with
  | run c => rcases execRun_cases c s with ⟨-, he⟩ | ⟨-, he⟩ <;> exact ⟨_, he⟩
  | index _ => exact ⟨_, rfl⟩
  | diff _ _ _ => exact ⟨_, rfl⟩
  | luma _ _ _ => exact ⟨_, rfl⟩
  | rgb _ _ _ => exact ⟨_, rfl⟩
  | rgba _ _ _ _ => exact ⟨_, rfl⟩

/-- A whole chunk fetched: it lies in the payload, its first byte is the tag at `inPos`, and it decodes with nothing left. -/
theorem fetchChunk_some {s : State} {c : List Byte} (h : fetchChunk s = some c) :
    ∃ b0 bs i, c = b0 :: bs ∧ Buffer.read s.inBuf (s.payBase + s.inPos) = some b0 ∧ c.length = chunkLen b0 ∧
      s.inPos + chunkLen b0 ≤ s.payLen ∧ decode c = .ok (i, []) ∧ i.kind = chunkKind b0 := by
  unfold fetchChunk at h
  split at h
  · cases h
  · split at h
    · cases h
    · rename_i b0 hb
      split at h
      · cases h
      · have hlen := Buffer.readN_length h
        have hpos := chunkLen_pos b0
        cases c with
        | nil => simp at hlen; omega
        | cons b bs =>
          obtain ⟨k, hk⟩ : ∃ k, chunkLen b0 = k + 1 := ⟨chunkLen b0 - 1, by omega⟩
          have hb' : b = b0 := by
            have h2 := h
            rw [hk] at h2
            have := Buffer.readN_head h2
            rw [hb] at this
            exact (Option.some.inj this).symm
          subst hb'
          obtain ⟨i, hi, hki⟩ := decode_ok_of_chunk b bs (by simpa using hlen)
          exact ⟨b, bs, i, rfl, hb, hlen, by omega, hi, hki⟩

theorem fetchChunk_not_missing {s : State} {c : List Byte} (h : fetchChunk s = some c) : chunkMissing s = false := by
  unfold fetchChunk at h
  unfold chunkMissing
  split at h
  · cases h
  · rename_i h1
    split at h
    · cases h
    · rename_i b0 hb
      split at h
      · cases h
      · rename_i h2
        simp [h1, h2]

/-- A decode step that runs a chunk is that chunk's meaning after the refresh. -/
theorem decodeStep_of_fetch {s : State} {c : List Byte} {i : Instr} {rest : List Byte} (hf : fetchChunk s = some c)
    (hd : decode c = .ok (i, rest)) : decodeStep s = exec i (refresh s) := by
  simp [decodeStep, fetchChunk_not_missing hf, hf, hd]

/-- Everything a decode step can do when it answers a next state. -/
theorem decodeStep_next {s t : State} (h : decodeStep s = .next t) :
    chunkMissing s = true ∧ t = raise .truncated (refresh s) ∨
      ∃ c i, fetchChunk s = some c ∧ decode c = .ok (i, []) ∧ exec i (refresh s) = .next t := by
  unfold decodeStep at h
  split at h
  · cases h; exact .inl ⟨‹_›, rfl⟩
  · split at h
    · cases h
    · rename_i c hf
      obtain ⟨b0, bs, i, -, -, -, -, hd, -⟩ := fetchChunk_some hf
      rw [hd] at h
      exact .inr ⟨c, i, hf, hd, h⟩

theorem encodeStep_next {s t : State} (h : encodeStep s = .next t) :
    ∃ p, Buffer.read s.pixIn s.pixPos = some p ∧ t = encodePixel p s := by
  unfold encodeStep at h
  split at h
  · cases h
  · exact ⟨_, ‹_›, checkOutLen_next h⟩

/-- What processing a pixel leaves alone (44_encode R232 to R241, "State written"), and that it moves on by one. -/
theorem encodePixel_fields (p : Pixel) (s : State) :
    (encodePixel p s).pixPos = s.pixPos + 1 ∧ (encodePixel p s).cfg = s.cfg ∧ (encodePixel p s).phase = s.phase ∧
      (encodePixel p s).err = s.err ∧ (encodePixel p s).outLen = s.outLen ∧ (encodePixel p s).hdr = s.hdr ∧
      (encodePixel p s).inBuf = s.inBuf ∧ (encodePixel p s).pixIn = s.pixIn ∧ (encodePixel p s).pixOut = s.pixOut ∧
      (encodePixel p s).inPos = s.inPos ∧ (encodePixel p s).outPos = s.outPos ∧ (encodePixel p s).latch = s.latch ∧
      (encodePixel p s).n = s.n ∧ (encodePixel p s).payBase = s.payBase ∧ (encodePixel p s).payLen = s.payLen ∧
      (encodePixel p s).cmd = s.cmd ∧ (encodePixel p s).stage = s.stage ∧ (encodePixel p s).draws = s.draws ∧
      (encodePixel p s).turns = s.turns := by
  unfold encodePixel continueRun encodeNew flushOpenRun flushRun
  refine ⟨rfl, ?_⟩
  split
  · split <;> simp
  · split <;> split <;> simp

theorem finishEncode_next {c : Command} {s t : State} (h : finishEncode c s = .next t) :
    (∃ hd, c = .fileEnc hd) ∧
        t = complete (some (Buffer.size s.outBuf + s.cfg.markerLen)) none (writeOut s.cfg.endMarker s) ∨
      (∀ hd, c ≠ .fileEnc hd) ∧ t = complete (some (Buffer.size s.outBuf)) none s := by
  unfold finishEncode at h
  split at h
  · split at h
    · cases h; exact .inl ⟨⟨_, rfl⟩, rfl⟩
    · cases h
  · rename_i hne
    cases h
    exact .inr ⟨fun hd => hne hd, rfl⟩

theorem finishDecode_next {c : Command} {s t : State} (h : finishDecode c s = .next t) :
    s.inPos ≠ s.payLen ∧ t = raise .trailing s ∨
      s.inPos = s.payLen ∧ c = .fileDec ∧ t = complete none (some s.latch) s ∨
      s.inPos = s.payLen ∧ c ≠ .fileDec ∧ t = complete none none s := by
  unfold finishDecode at h
  split at h
  · cases h; exact .inl ⟨‹_›, rfl⟩
  · rename_i hp
    have hp : s.inPos = s.payLen := by simpa using hp
    split at h
    · cases h; exact .inr (.inl ⟨hp, rfl, rfl⟩)
    · rename_i hne
      cases h
      exact .inr (.inr ⟨hp, hne, rfl⟩)

/-! ## One engine transition -/

/-- Everything the engine's transition can be when it answers a next state. -/
inductive Engine (s t : State) : Prop where
  | start (c : Command) (hc : s.cmd = some c) (hs : s.stage = .start) (h : Started c s t)
  | pixel (p : Pixel) (c : Command) (hc : s.cmd = some c) (hs : s.stage = .encode) (hn : s.pixPos < s.n)
      (hr : Buffer.read s.pixIn s.pixPos = some p) (h : t = encodePixel p s)
  | encodeEnds (c : Command) (hc : s.cmd = some c) (hs : s.stage = .encode) (hn : s.n ≤ s.pixPos)
      (h : finishEncode c s = .next t)
  | chunk (c : Command) (bytes : List Byte) (i : Instr) (hc : s.cmd = some c) (hs : s.stage = .decode)
      (hn : s.outPos < s.n) (hf : fetchChunk s = some bytes) (hd : decode bytes = .ok (i, []))
      (h : Ran i (refresh s) t)
  | truncated (c : Command) (hc : s.cmd = some c) (hs : s.stage = .decode) (hn : s.outPos < s.n)
      (hm : chunkMissing s = true) (h : t = raise .truncated (refresh s))
  | decodeEnds (c : Command) (hc : s.cmd = some c) (hs : s.stage = .decode) (hn : s.n ≤ s.outPos)
      (h : finishDecode c s = .next t)

theorem engineStep_next {s t : State} (h : engineStep s = .next t) : Engine s t := by
  unfold engineStep at h
  split at h
  · cases h
  · exact .start _ ‹_› ‹_› (startCommand_next h)
  · split at h
    · obtain ⟨p, hr, ht⟩ := encodeStep_next h
      exact .pixel p _ ‹_› ‹_› ‹_› hr ht
    · exact .encodeEnds _ ‹_› ‹_› (by omega) h
  · split at h
    · rcases decodeStep_next h with ⟨hm, ht⟩ | ⟨c, i, hf, hd, he⟩
      · exact .truncated _ ‹_› ‹_› ‹_› hm ht
      · exact .chunk _ c i ‹_› ‹_› ‹_› hf hd (exec_next he)
    · exact .decodeEnds _ ‹_› ‹_› (by omega) h

theorem engineTurn_next {s t : State} (h : engineTurn s = .next t) :
    s.phase = .busy ∧ Engine s t ∨ s.phase ≠ .busy ∧ t = s := by
  unfold engineTurn at h
  split at h
  · exact .inl ⟨‹_›, engineStep_next h⟩
  · cases h; exact .inr ⟨‹_›, rfl⟩

/-! ## One host move -/

/-- Everything a host move can do when it is not refused. -/
inductive Moved (m : HostMove) (s t : State) : Prop where
  | issued (c : Command) (hm : m = .issue c) (hp : s.phase ≠ .busy) (h : t = issueCommand c s)
  | filledIn (bytes : List Byte) (hm : m = .writeIn bytes) (hp : s.phase ≠ .busy)
      (h : t = { s with inBuf := Buffer.ofList bytes })
  | filledPixIn (pixels : List Pixel) (hm : m = .writePixIn pixels) (hp : s.phase ≠ .busy)
      (h : t = { s with pixIn := Buffer.ofList pixels })
  | resets (hm : m = .reset) (h : t = blockReset s)
  | observed (h : t = s)

theorem observe_next {α : Type} {answer : Except Refusal α} {s t : State} (h : observe answer s = .next t) : t = s := by
  unfold observe at h
  split at h
  · cases h; rfl
  · cases h

theorem hostMove_next {m : HostMove} {s t : State} (h : hostMove m s = .next t) : Moved m s t := by
  cases m with
  | issue c =>
    simp only [hostMove, hostIssue] at h
    split at h
    · cases h
    · cases h; exact .issued c rfl ‹_› rfl
  | writeIn bytes =>
    simp only [hostMove, hostWriteIn] at h
    split at h
    · cases h
    · cases h; exact .filledIn bytes rfl ‹_› rfl
  | writePixIn pixels =>
    simp only [hostMove, hostWritePixIn] at h
    split at h
    · cases h
    · cases h; exact .filledPixIn pixels rfl ‹_› rfl
  | reset => cases h; exact .resets rfl rfl
  | readPhase => cases h; exact .observed rfl
  | readErr => cases h; exact .observed rfl
  | readOutLen => exact .observed (observe_next h)
  | readHdr => exact .observed (observe_next h)
  | readOut => exact .observed (observe_next h)
  | readPixOut => exact .observed (observe_next h)

/-! ## One step -/

/-- A step is an engine's turn or a host move on the state with that turn taken off the plan. -/
theorem step_next {s t : State} (h : step s = .next t) :
    engineTurn { s with turns := s.turns.tail } = .next t ∧ (s.turns = [] ∨ ∃ rest, s.turns = .engine :: rest) ∨
      ∃ m rest, s.turns = .host m :: rest ∧ Moved m { s with turns := rest } t := by
  unfold step at h
  split at h
  · rename_i ht
    refine .inl ⟨?_, .inl ht⟩
    have : ({ s with turns := s.turns.tail } : State) = s := by cases s; simp_all
    rw [this]
    exact h
  · rename_i rest ht
    refine .inl ⟨?_, .inr ⟨rest, ht⟩⟩
    rw [ht]
    exact h
  · exact .inr ⟨_, _, ‹_›, hostMove_next h⟩

/-! ## Reset -/

/-- Reset lists nothing in any buffer, so every buffer is in canonical form. -/
theorem reset_buffers_wf : Memory.wf State.reset.inBuf ∧ Memory.wf State.reset.outBuf ∧ Buffer.wf State.reset.pixIn ∧
    Buffer.wf State.reset.pixOut := ⟨Buffer.wf_nil, Buffer.wf_nil, Buffer.wf_nil, Buffer.wf_nil⟩

end Sys2Proof.Machine
end

