-- ==== Sys2Proof/Tests/Slice0.lean ====
section
/-!
SUPPORT. Small tests, and a witness for the hypotheses of every statement that has some. Expected results come from the
worked examples of spec/ (95_test_vectors and the examples of the rules), named beside each test.
-/

namespace Sys2Proof.Machine.Tests

/-! ## Helpers -/

/-- The next state of an outcome. -/
def nextOf : Result → Option State
  | .next t => some t
  | _ => none

/-- A block in the decode loop of `DECODE(p, count)`, right after the initial values. -/
def decoding (p : List Byte) (count : Nat) : State :=
  initDecode 0 p.length count
    { State.reset with phase := .busy, cmd := some (.decode count), inBuf := Buffer.ofList p }

/-- A block in the encode loop of `ENCODE(x)`, right after the initial values. -/
def encoding (x : List Pixel) : State :=
  initEncode x.length { State.reset with phase := .busy, cmd := some .encode, pixIn := Buffer.ofList x }

/-- A block with the command `c` just issued, IN holding `p`. -/
def issued (c : Command) (p : List Byte) : State := issueCommand c { State.reset with inBuf := Buffer.ofList p }

/-- A state that answered DONE after DECODE of no pixels. -/
def doneEmpty : State := { State.reset with phase := .done, cmd := some (.decode 0) }

/-! ## Well-formedness: an ill-formed term for each check -/

theorem test_wf_diff_red : (Instr.diff 2 0 0).WellFormed = false := by decide
theorem test_wf_diff_green : (Instr.diff 0 (-3) 0).WellFormed = false := by decide
theorem test_wf_diff_blue : (Instr.diff 0 0 2).WellFormed = false := by decide
theorem test_wf_luma_green : (Instr.luma 32 0 0).WellFormed = false := by decide
theorem test_wf_luma_red : (Instr.luma 0 8 0).WellFormed = false := by decide
theorem test_wf_luma_blue : (Instr.luma 0 0 (-9)).WellFormed = false := by decide
theorem test_wf_run_zero : (Instr.run 0).WellFormed = false := by decide
/-- 93 U9: `RUN 63` has no encoding. -/
theorem test_wf_run_63 : assembleInstr (.run 63) = none := by decide

/-! ## Decoding: words written out from the formats of 30_encoding -/

/-- F1, tag 00, index 0b010100 = 20 (program P2). -/
theorem test_decode_index : decode [0b00010100] = .ok (.index 20, []) := by rfl
/-- F2, tag 01, fields 3, 0, 0 (program P1: `70` is DIFF 1,-2,-2). -/
theorem test_decode_diff : decode [0b01110000] = .ok (.diff 1 (-2) (-2), []) := by rfl
/-- F3, tag 10, green 0, then 15 and 0 (program P1: `80 F0` is LUMA -32,7,-8). -/
theorem test_decode_luma : decode [0b10000000, 0b11110000] = .ok (.luma (-32) 7 (-8), []) := by rfl
/-- F1, tag 11, field 61 (V-DEC-20: `FD` is RUN 62). -/
theorem test_decode_run : decode [0b11111101] = .ok (.run 62, []) := by rfl
/-- F4 (V-DEC-15), with a byte of the next chunk left over. -/
theorem test_decode_rgb : decode [0b11111110, 0x0A, 0x14, 0x1E, 0x00] = .ok (.rgb 10 20 30, [0x00]) := by rfl
/-- F5 (V-DEC-17). -/
theorem test_decode_rgba : decode [0b11111111, 0x0A, 0x14, 0x1E, 0xC8] = .ok (.rgba 10 20 30 200, []) := by rfl
/-- V-DEC-E2: an RGB chunk cut short. -/
theorem test_decode_short : decode [0xFE, 0x01, 0x02] = .error (.tooShort .rgb) := by rfl

/-! ## Encoding: bytes of 95_test_vectors -/

/-- V-ENC-13, V-ENC-23, V-ENC-3: `4E`, `BF F1`, `FD`. -/
theorem test_encode_fields :
    encode (.diff (-2) 1 0) = [0x4E] ∧ encode (.luma 31 7 (-7)) = [0xBF, 0xF1] ∧ encode (.run 62) = [0xFD] := by decide

/-- The opcode table's rows: the first byte is bits 7..0, the second bits 15..8. -/
theorem test_table_words :
    decodeTableWord 8 0x14 = some (.index 20) ∧ decodeTableWord 8 0x7F = some (.diff 1 1 1) ∧
      decodeTableWord 16 0xA8A0 = some (.luma 0 2 0) ∧ decodeTableWord 8 0xC1 = some (.run 2) ∧
      decodeTableWord 32 0x1E140AFE = some (.rgb 10 20 30) ∧
      decodeTableWord 40 0xC81E140AFF = some (.rgba 10 20 30 200) := by decide

/-! ## Arithmetic and hash (V-ARITH, V-CACHE-1, V-HDR-13) -/

theorem test_add8 : add8 250 38 = 32 ∧ add8 10 (-40) = 226 ∧ add8 0 (-1) = 255 := by decide
theorem test_delta8 : delta8 0 255 = 1 ∧ delta8 128 0 = -128 ∧ delta8 0 128 = -128 ∧ delta8 127 0 = 127 := by decide
theorem test_hash : hash ⟨3, 5, 7, 11⟩ ⟨10, 20, 30, 200⟩ = 44 ∧ hash ⟨3, 5, 7, 11⟩ ⟨0, 0, 0, 255⟩ = 53 ∧
    hash ⟨3, 5, 7, 11⟩ ⟨255, 255, 255, 255⟩ = 38 := by decide
theorem test_pixel_count_exact : pixelCount ⟨0xFFFFFFFF, 0xFFFFFFFF, 4, 1⟩ = 18446744065119617025 := by decide

/-! ## One step each, run from the fetch -/

/-- V-DEC-1: INDEX of an untouched slot outputs (0,0,0,0). -/
theorem test_index_untouched : (nextOf (step (decoding [0x05] 1))).map (fun t => (t.prev, t.inPos, t.outPos)) =
    some (⟨0, 0, 0, 0⟩, 1, 1) := by decide
/-- V-DEC-2: the refresh of its own step makes the previous pixel indexable (slot 44). -/
theorem test_index_after_refresh :
    (nextOf (step { decoding [0x2C] 1 with prev := ⟨10, 20, 30, 200⟩ })).map (fun t => t.prev) =
      some ⟨10, 20, 30, 200⟩ := by decide
/-- V-DEC-4: `40` wraps below zero. -/
theorem test_diff_wraps : (nextOf (step (decoding [0x40] 1))).map (fun t => t.prev) = some ⟨254, 254, 254, 0⟩ := by decide
/-- V-DEC-8. -/
theorem test_diff_from_prev : (nextOf (step { decoding [0x7F] 1 with prev := ⟨100, 100, 100, 0⟩ })).map (fun t => t.prev) =
    some ⟨101, 101, 101, 0⟩ := by decide
/-- R186: `BF FF` from (250,250,250,1). -/
theorem test_luma_wraps : (nextOf (step { decoding [0xBF, 0xFF] 1 with prev := ⟨250, 250, 250, 1⟩ })).map
    (fun t => (t.prev, t.inPos)) = some (⟨32, 25, 32, 1⟩, 2) := by decide
/-- V-SRC-8. -/
theorem test_luma_red_only : (nextOf (step { decoding [0xA0, 0xA8] 1 with prev := ⟨100, 100, 100, 0⟩ })).map
    (fun t => t.prev) = some ⟨102, 100, 100, 0⟩ := by decide
/-- V-DEC-21: RUN 2 in mid-image writes pixels 1 and 2. -/
theorem test_run_mid_image : (nextOf (step { decoding [0xC1] 3 with prev := ⟨0, 0, 0, 255⟩, outPos := 1 })).map
    (fun t => (Buffer.read t.pixOut 0, Buffer.read t.pixOut 2, t.outPos)) =
      some (none, some ⟨0, 0, 0, 255⟩, 3) := by decide
/-- V-DEC-E9: RUN 2 with one pixel to go. -/
theorem test_run_overflow : (nextOf (step (decoding [0xC1] 1))).map (fun t => (t.phase, t.err.code)) =
    some (.error, 7) := by decide
/-- R187: alpha is carried forward. -/
theorem test_rgb_keeps_alpha : (nextOf (step { decoding [0xFE, 0x0A, 0x14, 0x1E] 1 with prev := ⟨1, 2, 3, 200⟩ })).map
    (fun t => (t.prev, t.inPos)) = some (⟨10, 20, 30, 200⟩, 4) := by decide
/-- V-DEC-E2. -/
theorem test_rgb_truncated : (nextOf (step (decoding [0xFE, 0x01, 0x02] 1))).map (fun t => (t.phase, t.err.code)) =
    some (.error, 5) := by decide
/-- V-DEC-17. -/
theorem test_rgba : (nextOf (step (decoding [0xFF, 0x0A, 0x14, 0x1E, 0xC8] 1))).map (fun t => (t.prev, t.inPos)) =
    some (⟨10, 20, 30, 200⟩, 5) := by decide

/-- The host's word runs as the first instruction after reset: `A0 A8` is LUMA 0,2,0. -/
theorem test_fetch_word : (nextOf (step (State.reset.withFetchWord 16 0xA8A0))).map (fun t => (t.prev, t.inPos)) =
    some (⟨2, 0, 0, 0⟩, 2) := by decide

/-! ## Encode steps and commands -/

/-- V-ENC-17: (2,0,0,0) from the seed is LUMA, `A0 A8`, and is stored at its slot. -/
theorem test_encode_luma : (nextOf (step (encoding [⟨2, 0, 0, 0⟩]))).map (fun t => (t.out, lookup t.cache 6)) =
    some ([0xA0, 0xA8], ⟨2, 0, 0, 0⟩) := by decide
/-- V-ENC-5: an open run of 2 is flushed before DIFF, `C1 7A`. -/
theorem test_encode_flush : (nextOf (step { encoding [⟨6, 5, 5, 5⟩] with prev := ⟨5, 5, 5, 5⟩, run := 2 })).map
    (fun t => (t.out, t.run)) = some ([0xC1, 0x7A], 0) := by decide
/-- V-ENC-7: INDEX comes before DIFF. -/
theorem test_encode_index : (nextOf (step { encoding [⟨0, 0, 0, 0⟩] with prev := ⟨255, 255, 255, 0⟩ })).map
    (fun t => t.out) = some [0x00] := by decide
/-- V-HDR-1. -/
theorem test_header_encode : headerEncode ⟨1, 2, 3, 0⟩ =
    .ok [0x71, 0x6F, 0x69, 0x66, 0, 0, 0, 1, 0, 0, 0, 2, 3, 0] := by rfl
/-- V-HDR-12: magic before channels. -/
theorem test_header_priority : headerDecode [0x51, 0x4F, 0x49, 0x46, 0, 0, 0, 1, 0, 0, 0, 1, 5, 0] = .error .hdrMagic := by rfl
/-- V-FILE-9: a header and nothing else is too short for the marker. -/
theorem test_file_short :
    (nextOf (step (issued .fileDec [0x71, 0x6F, 0x69, 0x66, 0, 0, 0, 1, 0, 0, 0, 1, 3, 0]))).map (fun t => t.err.code) =
      some 9 := by decide
/-- 30_encoding R97. -/
theorem test_text : operands (.luma (-32) 7 (-8)) = [-32, 7, -8] ∧ mnemonic (Instr.luma (-32) 7 (-8)).kind = "LUMA" := by
  decide

/-- 10_state R22: PIXOUT seen as bytes, after DECODE of one pixel. -/
theorem test_pixel_bytes : (match readPixOutBytes { doneEmpty with cmd := some (.decode 1), pixOut := [(0, ⟨10, 20, 30, 200⟩)] }
    with | .ok bytes => bytes | .error _ => []) = [10, 20, 30, 200] := by decide

/-! ## Witnesses

For every statement that has hypotheses, a theorem `witness_<name of the statement>`: a concrete state and operands that meet
all of them together, clause by clause where it has several, at the ends of the ranges. -/

theorem witness_DecodeOfEncodeIsSame : (Instr.diff (-2) 1 0).WellFormed = true ∧ (Instr.luma (-32) 7 (-8)).WellFormed = true ∧
    (Instr.luma 31 (-8) 7).WellFormed = true ∧ (Instr.run 62).WellFormed = true ∧ (Instr.run 1).WellFormed = true := by
  decide

theorem witness_EncodeOfDecodeIsSame : decode [0xFD, 0x01] = .ok (.run 62, [0x01]) := by rfl

theorem witness_DecoderTakesDeclaredLength : chunkLen 0xFE ≤ [1, 2, 3].length + 1 ∧ [1, 2].length + 1 < chunkLen 0xFE := by
  decide

/-- The ends of the four ranges. -/
theorem witness_FieldsAreReadByPosition : (0x3F : Byte).toNat ≤ 0x3F ∧ 0x40 ≤ (0x40 : Byte).toNat ∧
    (0x7F : Byte).toNat ≤ 0x7F ∧ 0x80 ≤ (0x80 : Byte).toNat ∧ (0xBF : Byte).toNat ≤ 0xBF ∧ 0xC0 ≤ (0xC0 : Byte).toNat ∧
    (0xFD : Byte).toNat ≤ 0xFD := by decide

theorem witness_IndexPutsCachedPixel : (0x3F : Byte).extractLsb' 6 2 = 0b00 := by decide

/-- A LUMA tag byte, and one that is the last byte of the payload (V-DEC-E4). -/
theorem witness_LumaPutsDeltaPixel : Running .decode (decoding [0xBF] 1) ∧
    (decoding [0xBF] 1).outPos < (decoding [0xBF] 1).n ∧
    (decoding [0xBF] 1).payLen = (decoding [0xBF] 1).inPos + 1 ∧
    Buffer.read (decoding [0xBF] 1).inBuf 0 = some 0xBF ∧ (0xBF : Byte).extractLsb' 6 2 = 0b10 :=
  ⟨⟨rfl, rfl, by decide, .inl rfl⟩, by decide, by decide, by decide, by decide⟩

theorem witness_AssembledFileIsHeaderChunksMarker : (∃ hb, headerEncode ⟨1, 1, 4, 0⟩ = .ok hb) ∧
    ∀ i ∈ [Instr.run 2, Instr.index 53], i.WellFormed = true := ⟨⟨_, rfl⟩, by decide⟩

/-- A run that just fits (V-DEC-20). -/
theorem witness_RunRepeatsPrevious : (decoding [0xFD] 62).outPos + 62 ≤ (decoding [0xFD] 62).n := by decide

/-- A run that just does not fit (V-DEC-E10). -/
theorem witness_RunPastCountAborts : (decoding [0xFD] 61).n < (decoding [0xFD] 61).outPos + 62 := by decide

/-- A run that just fits. -/
theorem witness_ChunkLeavesRestUnchanged :
    (∀ c, Instr.run 1 = .run c → (decoding [0xC0] 1).outPos + c ≤ (decoding [0xC0] 1).n) ∧
      ∃ t, exec (.run 1) (decoding [0xC0] 1) = .next t :=
  ⟨by intro c h; cases h; decide, ⟨_, rfl⟩⟩

theorem witness_AlphaChangesOnlyByRgbaOrIndex : (Instr.diff 1 1 1).kind ≠ .rgba ∧ (Instr.diff 1 1 1).kind ≠ .index ∧
    (∀ c, Instr.diff 1 1 1 = .run c → (decoding [0x7F] 1).outPos + c ≤ (decoding [0x7F] 1).n) ∧
    ∃ t, exec (.diff 1 1 1) (decoding [0x7F] 1) = .next t := ⟨by decide, by decide, by simp, ⟨_, rfl⟩⟩

theorem witness_StepRunsDecodedChunk : Running .decode (decoding [0x7F] 1) ∧
    (decoding [0x7F] 1).outPos < (decoding [0x7F] 1).n ∧
    (decoding [0x7F] 1).inPos + chunkLen 0x7F ≤ (decoding [0x7F] 1).payLen ∧
    Buffer.readN (decoding [0x7F] 1).inBuf 0 (chunkLen 0x7F) = some [0x7F] ∧ decode [0x7F] = .ok (.diff 1 1 1, []) :=
  ⟨⟨rfl, rfl, by decide, .inl rfl⟩, by decide, by decide, by decide, by rfl⟩

/-- No tag byte left (V-DEC-E1); and a last byte that declares a second one (V-DEC-E4). -/
theorem witness_MissingBytesAbort :
    (Running .decode (decoding [] 1) ∧ (decoding [] 1).outPos < (decoding [] 1).n ∧
      (decoding [] 1).payLen ≤ (decoding [] 1).inPos) ∧
    (Running .decode (decoding [0x80] 1) ∧ (decoding [0x80] 1).outPos < (decoding [0x80] 1).n ∧
      Buffer.read (decoding [0x80] 1).inBuf 0 = some 0x80 ∧ (decoding [0x80] 1).payLen < 0 + chunkLen 0x80) :=
  ⟨⟨⟨rfl, rfl, by decide, .inl rfl⟩, by decide, by decide⟩, ⟨rfl, rfl, by decide, .inl rfl⟩, by decide, by decide, by decide⟩

/-- The end of the loop with all bytes read, and with one left (V-DEC-24, V-DEC-E8). -/
theorem witness_DecodeEndChecksConsumption :
    (Running .decode (decoding [] 0) ∧ (decoding [] 0).n ≤ (decoding [] 0).outPos ∧
      (decoding [] 0).inPos = (decoding [] 0).payLen) ∧
    (Running .decode (decoding [0] 0) ∧ (decoding [0] 0).n ≤ (decoding [0] 0).outPos ∧
      (decoding [0] 0).inPos ≠ (decoding [0] 0).payLen) :=
  ⟨⟨⟨rfl, rfl, by decide, .inl rfl⟩, by decide, by decide⟩, ⟨rfl, rfl, by decide, .inl rfl⟩, by decide, by decide⟩

theorem witness_IssueMakesBlockBusy : State.reset.phase ≠ .busy := by decide

theorem witness_BusyHostMovesAreRefused : (decoding [] 1).phase = .busy := rfl

theorem witness_HostFillsInputs : State.reset.phase ≠ .busy := by decide

theorem witness_ResultsReadOnlyWhenDone : State.reset.phase ≠ .done ∧ (decoding [] 1).phase ≠ .done := by decide

theorem inv_doneEmpty : Inv doneEmpty := by
  refine ⟨rfl, rfl, rfl, rfl, by decide, by decide, by decide, (nofun), (nofun), ?_, ?_⟩
  · intro _ len h
    cases h
  · intro _ count h
    cases h
    rfl

/-- A DONE block with one byte in OUT. -/
def doneBytes : State := { doneEmpty with cmd := some .encode, outLen := some 1, outBuf := [(0, 0xFD)] }

theorem inv_doneBytes : Inv doneBytes := by
  refine ⟨rfl, rfl, rfl, rfl, by decide, by decide, by decide, (nofun), (nofun), ?_, ?_⟩
  · intro _ len h
    cases h
    rfl
  · intro _ count h
    cases h

/-- A DONE block with a pixel result, and one with bytes in OUT. -/
theorem witness_DoneResultsCanBeRead :
    (Inv doneEmpty ∧ doneEmpty.phase = .done ∧ resultPixels doneEmpty = some 0) ∧
      (Inv doneBytes ∧ doneBytes.phase = .done ∧ doneBytes.outLen = some 1) :=
  ⟨⟨inv_doneEmpty, rfl, rfl⟩, inv_doneBytes, rfl, rfl⟩

/-- Not BUSY, for the clause that has this premise. -/
theorem witness_ResetIsAlwaysEnabled : State.reset.phase ≠ .busy := by decide

theorem issued_issued (c : Command) (p : List Byte) : Issued c (issued c p) := ⟨rfl, rfl, rfl, .inl rfl⟩

/-- A bad channels byte, a bad color space, and a legal header (V-HDR). -/
theorem witness_HdrEncCommand (h : Header) : Issued (.hdrEnc h) (issued (.hdrEnc h) []) ∧
    (issued (.hdrEnc h) []).cfg.posWidth = none ∧ ¬((5 : Byte) = 3 ∨ (5 : Byte) = 4) ∧
    ¬((2 : Byte) = 0 ∨ (2 : Byte) = 1) ∧ ((4 : Byte) = 3 ∨ (4 : Byte) = 4) ∧ ((1 : Byte) = 0 ∨ (1 : Byte) = 1) :=
  ⟨issued_issued _ _, rfl, by decide, by decide, by decide, by decide⟩

/-- 13 and 15 bytes, a bad magic byte, and the legal header of V-HDR-1. -/
theorem witness_HdrDecCommand (p : List Byte) : Issued .hdrDec (issued .hdrDec p) ∧
    (issued .hdrDec p).inBuf = Buffer.ofList p ∧ (List.replicate 13 (0 : Byte)).length ≠ 14 ∧
    (List.replicate 15 (0 : Byte)).length ≠ 14 ∧
    ([0x51, 0x6F, 0x69, 0x66] : List Byte) ≠ [0x71, 0x6F, 0x69, 0x66] ∧ ¬((5 : Byte) = 3 ∨ (5 : Byte) = 4) ∧
    ¬((2 : Byte) = 0 ∨ (2 : Byte) = 1) ∧ ((3 : Byte) = 3 ∨ (3 : Byte) = 4) ∧ ((0 : Byte) = 0 ∨ (0 : Byte) = 1) :=
  ⟨issued_issued _ _, rfl, by decide, by decide, by decide, by decide, by decide, by decide, by decide⟩

theorem witness_HeaderRoundTrip :
    headerEncode ⟨1, 2, 3, 0⟩ = .ok [0x71, 0x6F, 0x69, 0x66, 0, 0, 0, 1, 0, 0, 0, 2, 3, 0] ∧
    headerDecode [0x71, 0x6F, 0x69, 0x66, 0, 0, 0, 1, 0, 0, 0, 2, 3, 0] = .ok ⟨1, 2, 3, 0⟩ := ⟨rfl, rfl⟩

/-- A block with MAX_PIXELS `m` and the command `c` just issued, PIXIN holding `x`. -/
def capped (m : Nat) (c : Command) (x : List Pixel) : State :=
  { issued c [] with cfg := { Config.default with maxPixels := some m }, pixIn := Buffer.ofList x }

/-- One pixel more than MAX_PIXELS (V-DEC-E11). -/
theorem witness_CapacityIsCheckedFirst :
    ((capped 0 .encode [Pixel.zero]).cfg.maxPixels = some 0 ∧ Issued .encode (capped 0 .encode [Pixel.zero]) ∧
      0 < Buffer.size (capped 0 .encode [Pixel.zero]).pixIn) ∧
    ((capped 3 (.decode 4) []).cfg.maxPixels = some 3 ∧ Issued (.decode 4) (capped 3 (.decode 4) []) ∧ 3 < 4) :=
  ⟨⟨rfl, ⟨rfl, rfl, rfl, .inl rfl⟩, by decide⟩, rfl, ⟨rfl, rfl, rfl, .inl rfl⟩, by decide⟩

/-- As many pixels as MAX_PIXELS allows. -/
theorem witness_DecodeStartValues : Issued (.decode 3) (capped 3 (.decode 3) []) ∧
    overCapacity (capped 3 (.decode 3) []).cfg 3 = false ∧ fitsPosWidth (capped 3 (.decode 3) []).cfg 3 = true ∧
    fitsPosWidth (capped 3 (.decode 3) []).cfg (Buffer.size (capped 3 (.decode 3) []).inBuf) = true :=
  ⟨⟨rfl, rfl, rfl, .inl rfl⟩, rfl, rfl, rfl⟩

theorem witness_EncodeStartValues : Issued .encode (capped 1 .encode [Pixel.zero]) ∧
    overCapacity (capped 1 .encode [Pixel.zero]).cfg 1 = false ∧ fitsPosWidth (capped 1 .encode [Pixel.zero]).cfg 1 = true :=
  ⟨⟨rfl, rfl, rfl, .inl rfl⟩, rfl, rfl⟩

/-- The shape wrong; the shape right with a bad header, with a legal one over the capacity, and with a legal one within it
(V-FILE-1, V-FILE-3, V-FILE-5). -/
theorem witness_FileEncChecksInOrder (m : Nat) (h : Header) :
    (Issued (.fileEnc h) (capped m (.fileEnc h) [Pixel.zero]) ∧ (capped m (.fileEnc h) [Pixel.zero]).cfg.posWidth = none) ∧
    Buffer.size (capped m (.fileEnc h) [Pixel.zero]).pixIn ≠ pixelCount ⟨2, 1, 4, 0⟩ ∧
    Buffer.size (capped m (.fileEnc h) [Pixel.zero]).pixIn = pixelCount ⟨1, 1, 4, 0⟩ ∧
    (∃ e, headerEncode ⟨1, 1, 3, 7⟩ = .error e) ∧ (∃ hb, headerEncode ⟨1, 1, 4, 0⟩ = .ok hb) ∧
    overCapacity (capped 0 (.fileEnc h) [Pixel.zero]).cfg 1 = true ∧
    overCapacity (capped 1 (.fileEnc h) [Pixel.zero]).cfg 1 = false :=
  ⟨⟨⟨rfl, rfl, rfl, .inl rfl⟩, rfl⟩, by show 1 ≠ 2; decide, rfl, ⟨_, rfl⟩, ⟨_, rfl⟩, rfl, rfl⟩

/-- The empty file of V-FILE-6 with the last byte of its marker as given. -/
def emptyFile (last : Byte) : List Byte :=
  [0x71, 0x6F, 0x69, 0x66, 0, 0, 0, 0, 0, 0, 0, 0, 3, 0, 0, 0, 0, 0, 0, 0, 0, last]

/-- 13 bytes; 14 bytes with a bad magic; a file one byte short of its marker, and one just long enough; the capacity
clause; a matching marker, and a wrong one under ENFORCE (V-FILE-16). -/
theorem witness_FileDecChecksInOrder (f : List Byte) :
    (Issued .fileDec (issued .fileDec f) ∧ (issued .fileDec f).inBuf = Buffer.ofList f ∧
      (issued .fileDec f).cfg.posWidth = none) ∧
    ((emptyFile 1).take 13).length < 14 ∧ 14 ≤ ((emptyFile 1).take 14).length ∧
    headerDecode (List.replicate 14 0) = .error .hdrMagic ∧ headerDecode ((emptyFile 1).take 14) = .ok ⟨0, 0, 3, 0⟩ ∧
    ((emptyFile 1).take 21).length < 14 + State.reset.cfg.markerLen ∧
    14 + State.reset.cfg.markerLen ≤ (emptyFile 1).length ∧
    overCapacity (capped 0 .fileDec []).cfg (pixelCount ⟨1, 1, 3, 0⟩) = true ∧
    overCapacity (issued .fileDec f).cfg (pixelCount ⟨0, 0, 3, 0⟩) = false ∧
    markerAccepted ((emptyFile 1).drop (22 - 8)) State.reset = true ∧
    markerAccepted ((emptyFile 2).drop (22 - 8))
      { State.reset with cfg := { Config.default with endMarkerCheck := .enforce } } = false :=
  ⟨⟨issued_issued _ _, rfl, rfl⟩, by decide, by decide, rfl, rfl, by decide, by decide, rfl, rfl, rfl, rfl⟩

/-- A matching marker and a wrong one (V-FILE-16), and a block with each setting. -/
theorem witness_MarkerCheckFollowsSetting : (emptyFile 1).drop 14 = State.reset.cfg.endMarker ∧
    (emptyFile 2).drop 14 ≠ State.reset.cfg.endMarker ∧ State.reset.cfg.endMarkerCheck = .either ∧
    { Config.default with endMarkerCheck := .enforce }.endMarkerCheck = .enforce ∧
    { Config.default with endMarkerCheck := .ignore }.endMarkerCheck = .ignore := by decide

/-- A block with POS_WIDTH 2 whose `n` is 4, and one whose payload has 4 bytes. -/
def narrow (count : Nat) (p : List Byte) : State :=
  { issued (.decode count) p with cfg := { Config.default with posWidth := some 2 } }

theorem witness_NarrowCountersRefuseDecode :
    (Issued (.decode 4) (narrow 4 []) ∧ (narrow 4 []).cfg.posWidth = some 2 ∧ overCapacity (narrow 4 []).cfg 4 = false ∧
      2 ^ 2 ≤ 4) ∧
    (Issued (.decode 1) (narrow 1 [0, 0, 0, 0]) ∧ 2 ^ 2 ≤ Buffer.size (narrow 1 [0, 0, 0, 0]).inBuf) :=
  ⟨⟨⟨rfl, rfl, rfl, .inl rfl⟩, rfl, rfl, by decide⟩, ⟨rfl, rfl, rfl, .inl rfl⟩, by decide⟩

/-- An equal pixel that is the last one, one that makes the run 62, and one that is neither. -/
theorem witness_EqualPixelExtendsRun :
    (Running .encode (encoding [Pixel.zero]) ∧ (encoding [Pixel.zero]).cfg.posWidth = none ∧
      Buffer.Dense (encoding [Pixel.zero]).outBuf ∧ (encoding [Pixel.zero]).pixPos < (encoding [Pixel.zero]).n ∧
      Buffer.read (encoding [Pixel.zero]).pixIn 0 = some (encoding [Pixel.zero]).prev ∧
      (encoding [Pixel.zero]).pixPos + 1 = (encoding [Pixel.zero]).n) ∧
    { encoding [Pixel.zero] with run := 61 }.run + 1 = 62 ∧
    (Running .encode (encoding [Pixel.zero, Pixel.zero]) ∧
      ¬((encoding [Pixel.zero, Pixel.zero]).run + 1 = 62 ∨
        (encoding [Pixel.zero, Pixel.zero]).pixPos + 1 = (encoding [Pixel.zero, Pixel.zero]).n)) :=
  ⟨⟨⟨rfl, rfl, by decide, .inl rfl⟩, rfl, rfl, by decide, by decide, by decide⟩, by decide,
    ⟨rfl, rfl, by decide, .inl rfl⟩, by decide⟩

theorem witness_DifferingPixelEmitsItsChunk :
    Running .encode (encoding [⟨1, 1, 1, 0⟩]) ∧ (encoding [⟨1, 1, 1, 0⟩]).cfg.posWidth = none ∧
    Buffer.Dense (encoding [⟨1, 1, 1, 0⟩]).outBuf ∧
    (encoding [⟨1, 1, 1, 0⟩]).pixPos < (encoding [⟨1, 1, 1, 0⟩]).n ∧
    Buffer.read (encoding [⟨1, 1, 1, 0⟩]).pixIn 0 = some ⟨1, 1, 1, 0⟩ ∧
    (⟨1, 1, 1, 0⟩ : Pixel) ≠ (encoding [⟨1, 1, 1, 0⟩]).prev :=
  ⟨⟨rfl, rfl, by decide, .inl rfl⟩, rfl, rfl, by decide, by decide, by decide⟩

/-- Grey steps from 0: alpha changed; and unchanged with DIFF, with LUMA only, and with neither (V-ENC-9, 11, 18, 25). -/
theorem witness_LiteralPriority : (1 : Byte) ≠ 0 ∧ (-2 ≤ delta8 1 0 ∧ delta8 1 0 ≤ 1) ∧
    ¬(-2 ≤ delta8 31 0 ∧ delta8 31 0 ≤ 1) ∧ (-32 ≤ delta8 31 0 ∧ delta8 31 0 ≤ 31) ∧
    ¬(-32 ≤ delta8 32 0 ∧ delta8 32 0 ≤ 31) := by decide

/-- A BUSY decode loop meets the invariant. -/
theorem inv_decoding : Inv (decoding [0x7F] 1) :=
  ⟨rfl, rfl, rfl, rfl, by decide, fun _ => ⟨rfl, rfl⟩, by decide,
    fun _ _ => ⟨by decide, by decide, by decide, by decide, .inl rfl⟩, (nofun), (nofun), (nofun)⟩

/-- A BUSY encode loop meets the invariant. -/
theorem inv_encoding : Inv (encoding [Pixel.zero]) :=
  ⟨rfl, rfl, rfl, rfl, by decide, fun _ => ⟨rfl, rfl⟩, by decide, (nofun),
    fun _ _ => ⟨by decide, by decide, by decide, by decide, .inl rfl⟩, (nofun), (nofun)⟩

theorem witness_StepKeepsInv : Inv (decoding [0x7F] 1) ∧ ∃ t, step (decoding [0x7F] 1) = .next t := ⟨inv_decoding, ⟨_, rfl⟩⟩

theorem witness_BusyEngineNeverStuck : Inv (decoding [0x7F] 1) ∧ (decoding [0x7F] 1).phase = .busy ∧
    EngineMoves (decoding [0x7F] 1) ∧ (decoding [0x7F] 1).cfg.posWidth = none := ⟨inv_decoding, rfl, .inl rfl, rfl⟩

theorem witness_ParametersNeverChange : ∃ t, step (decoding [0x7F] 1) = .next t := ⟨_, rfl⟩

theorem witness_EngineNeverWritesInputs : EngineMoves (decoding [0x7F] 1) ∧ ∃ t, step (decoding [0x7F] 1) = .next t :=
  ⟨.inl rfl, ⟨_, rfl⟩⟩

/-- The phase changes by an issue, by a reset, and by the engine. -/
theorem witness_PhaseChangesOnlyBy :
    (∃ t, step { State.reset with turns := [.host (.issue .encode)] } = .next t ∧ t.phase ≠ State.reset.phase) ∧
    (∃ t, step { decoding [] 1 with turns := [.host .reset] } = .next t ∧ t.phase ≠ (decoding [] 1).phase) ∧
    ∃ t, step (decoding [] 0) = .next t ∧ t.phase ≠ (decoding [] 0).phase :=
  ⟨⟨_, rfl, by decide⟩, ⟨_, rfl, by decide⟩, ⟨_, rfl, by decide⟩⟩

/-- Two idle blocks with different leftovers. -/
theorem witness_TransactionsAreIndependent :
    Indistinguishable State.reset { State.reset with prev := ⟨1, 2, 3, 4⟩, run := 7 } ∧
    State.reset ≠ { State.reset with prev := ⟨1, 2, 3, 4⟩, run := 7 } :=
  ⟨⟨⟨rfl, rfl, rfl, rfl, rfl, rfl, rfl, rfl, rfl, rfl, rfl, rfl, rfl⟩, (nofun), (nofun)⟩,
    fun h => absurd (congrArg State.run h) (by decide)⟩

theorem witness_DecodeAlwaysEnds : Inv (decoding [0x7F] 1) ∧ (decoding [0x7F] 1).phase = .busy ∧
    (decoding [0x7F] 1).stage = .decode ∧ (decoding [0x7F] 1).turns = [] := ⟨inv_decoding, rfl, rfl, rfl⟩

theorem witness_EncodeTakesOneStepPerPixel : Inv (encoding [Pixel.zero]) ∧ (encoding [Pixel.zero]).phase = .busy ∧
    (encoding [Pixel.zero]).stage = .encode ∧ (encoding [Pixel.zero]).turns = [] ∧
    (encoding [Pixel.zero]).cfg.posWidth = none := ⟨inv_encoding, rfl, rfl, rfl, rfl⟩

/-- The empty payload and one byte (V-DEC-24, V-DEC-E8). -/
theorem witness_EmptyImage (p : List Byte) : (Issued (.decode 0) (issued (.decode 0) p) ∧
    (issued (.decode 0) p).turns = [] ∧ (issued (.decode 0) p).cfg.posWidth = none) ∧
    Buffer.size (issued (.decode 0) []).inBuf = 0 ∧ Buffer.size (issued (.decode 0) [0]).inBuf ≠ 0 :=
  ⟨⟨issued_issued _ _, rfl, rfl⟩, by decide, by decide⟩

theorem witness_EncodeLengthBounds : State.reset.phase ≠ .busy ∧ State.reset.cfg.posWidth = none ∧
    overCapacity State.reset.cfg [Pixel.zero].length = false := ⟨by decide, rfl, rfl⟩

/-- The default seed; and the seed (0,0,0,255), by its hash 53 (90_conflicts C2). -/
theorem witness_PayloadRoundTrip : State.reset.phase ≠ .busy ∧ State.reset.cfg.posWidth = none ∧
    SeedOk State.reset.cfg ∧ overCapacity State.reset.cfg [Pixel.zero].length = false ∧
    SeedOk { Config.default with seedPixel := ⟨0, 0, 0, 255⟩ } :=
  ⟨by decide, rfl, .inl rfl, rfl, .inr (by decide)⟩

theorem witness_FileRoundTrip : State.reset.phase ≠ .busy ∧ State.reset.cfg.posWidth = none ∧ SeedOk State.reset.cfg ∧
    ((3 : Byte) = 3 ∨ (3 : Byte) = 4) ∧ ((1 : Byte) = 0 ∨ (1 : Byte) = 1) ∧
    [Pixel.zero, Pixel.zero].length = pixelCount ⟨2, 1, 3, 1⟩ ∧
    overCapacity State.reset.cfg [Pixel.zero, Pixel.zero].length = false :=
  ⟨by decide, rfl, .inl rfl, .inl rfl, .inr rfl, by decide, rfl⟩

end Sys2Proof.Machine.Tests
end

/-! The decoder takes exactly the bytes that the tag byte declares (30_encoding R80). -/

namespace Sys2Proof

/-- Where declared bytes are missing, the decoder names the kind that the tag byte declares. Only LUMA, RGB and RGBA
declare more than the tag byte, so only they can be cut short. -/
theorem decode_tooShort_of_length (b0 : Byte) (bs : List Byte) (h : bs.length + 1 < chunkLen b0) :
    decode (b0 :: bs) = .error (.tooShort (chunkKind b0)) := by
  rw [chunkLen_eq_size] at h
  unfold decode
  cases hk : chunkKind b0 <;> simp only [hk, ChunkKind.size] at h ⊢
  case index | diff | run => omega
  case luma =>
    match bs, h with
    | [], _ => rfl
  case rgb =>
    match bs, h with
    | [], _ | [_], _ | [_, _], _ => rfl
  case rgba =>
    match bs, h with
    | [], _ | [_], _ | [_, _], _ | [_, _, _], _ => rfl

/-- Settles O4: `chunkLen` is the size of the tag's kind, and the decoder drops that many bytes or names the kind cut
short. -/
theorem decoderTakesDeclaredLength : Obligations.DecoderTakesDeclaredLength := by
  refine ⟨fun b0 => ?table, rfl, fun b0 bs => ⟨fun h => ?taken, decode_tooShort_of_length b0 bs⟩⟩
  case table =>
    rw [chunkLen_eq_size]
    cases chunkKind b0 <;> rfl
  case taken =>
    rw [List.drop_cons (chunkLen_pos b0)]
    exact decode_ok_of_length b0 bs h

end Sys2Proof

/-! Delta arithmetic (40_delta_arith): `add8` undoes `delta8`, lane by lane and pixel by pixel. -/

namespace Sys2Proof.Machine

/-- 40_delta_arith R116 for one channel: both sides are the residue of `c` modulo 256. -/
theorem add8_delta8 (c p : Byte) : add8 p (delta8 c p) = c := by
  obtain ⟨hmod, -, -⟩ := delta8_spec c p
  have hadd := add8_toNat p (delta8 c p)
  have hc := c.isLt
  apply BitVec.eq_of_toNat_eq
  omega

/-- 40_delta_arith R116 for a pixel: `padd` leaves alpha alone, so the law needs equal alphas. -/
theorem padd_delta8 {prev p : Pixel} (ha : p.a = prev.a) :
    padd prev (delta8 p.r prev.r) (delta8 p.g prev.g) (delta8 p.b prev.b) = p := by
  simp only [padd, add8_delta8, ← ha]

/-- Settles O8: `add8` is `wrap8` of the sum, and `wrap8` is the floor modulo. -/
theorem add8WrapsModulo256 : Obligations.Add8WrapsModulo256 := add8_toNat

/-- Settles O9: the range is `sext8`'s, the restored channel is `add8_delta8`. -/
theorem addingDeltaRestoresChannel : Obligations.AddingDeltaRestoresChannel := by
  intro c p
  obtain ⟨-, hlo, hhi⟩ := delta8_spec c p
  exact ⟨hlo, hhi, add8_delta8 c p⟩

end Sys2Proof.Machine

/-! The choice among DIFF, LUMA, RGB and RGBA (44_encode R237 to R240): one equation for each branch of `chooseLiteral`. -/

namespace Sys2Proof.Machine

section
variable {prev p : Pixel}

theorem chooseLiteral_of_fitsDiff (hd : fitsDiff (pdelta p prev) = true) :
    chooseLiteral prev p = .diff (delta8 p.r prev.r) (delta8 p.g prev.g) (delta8 p.b prev.b) :=
  if_pos hd

theorem chooseLiteral_of_fitsLuma (hd : ¬fitsDiff (pdelta p prev) = true) (hl : fitsLuma (pdelta p prev) = true) :
    chooseLiteral prev p = .luma (delta8 p.g prev.g) (delta8 p.r prev.r - delta8 p.g prev.g)
      (delta8 p.b prev.b - delta8 p.g prev.g) :=
  (if_neg hd).trans (if_pos hl)

theorem chooseLiteral_of_alpha_eq (hd : ¬fitsDiff (pdelta p prev) = true) (hl : ¬fitsLuma (pdelta p prev) = true)
    (ha : p.a = prev.a) : chooseLiteral prev p = .rgb p.r p.g p.b :=
  (if_neg hd).trans ((if_neg hl).trans (if_pos ((delta8_eq_zero _ _).2 ha)))

/-- Neither delta form fits where alpha changed, so no condition on the deltas is needed. -/
theorem chooseLiteral_of_alpha_ne (ha : p.a ≠ prev.a) : chooseLiteral prev p = .rgba p.r p.g p.b p.a := by
  have hA : (pdelta p prev).dA ≠ 0 := fun h => ha ((delta8_eq_zero _ _).1 h)
  have hd : ¬fitsDiff (pdelta p prev) = true := fun h => hA ((fitsDiff_iff _).1 h).1
  have hl : ¬fitsLuma (pdelta p prev) = true := fun h => hA ((fitsLuma_iff _).1 h).1
  exact (if_neg hd).trans ((if_neg hl).trans (if_neg hA))

/-- DIFF's condition of 44_encode R238 where alpha is unchanged. -/
theorem fitsDiff_pdelta_iff (ha : p.a = prev.a) : fitsDiff (pdelta p prev) = true ↔
    (-2 ≤ delta8 p.r prev.r ∧ delta8 p.r prev.r ≤ 1) ∧ (-2 ≤ delta8 p.g prev.g ∧ delta8 p.g prev.g ≤ 1) ∧
      (-2 ≤ delta8 p.b prev.b ∧ delta8 p.b prev.b ≤ 1) :=
  (fitsDiff_iff _).trans (and_iff_right ((delta8_eq_zero _ _).2 ha))

/-- LUMA's condition of 44_encode R239 where alpha is unchanged. -/
theorem fitsLuma_pdelta_iff (ha : p.a = prev.a) : fitsLuma (pdelta p prev) = true ↔
    (-32 ≤ delta8 p.g prev.g ∧ delta8 p.g prev.g ≤ 31) ∧
      (-8 ≤ delta8 p.r prev.r - delta8 p.g prev.g ∧ delta8 p.r prev.r - delta8 p.g prev.g ≤ 7) ∧
      (-8 ≤ delta8 p.b prev.b - delta8 p.g prev.g ∧ delta8 p.b prev.b - delta8 p.g prev.g ≤ 7) :=
  (fitsLuma_iff _).trans (and_iff_right ((delta8_eq_zero _ _).2 ha))

/-- What holds of each of the four chunks under its branch's condition holds of the chosen one. -/
theorem chooseLiteral_cases {motive : Instr → Prop}
    (diff : p.a = prev.a → fitsDiff (pdelta p prev) = true →
      motive (.diff (delta8 p.r prev.r) (delta8 p.g prev.g) (delta8 p.b prev.b)))
    (luma : p.a = prev.a → fitsLuma (pdelta p prev) = true →
      motive (.luma (delta8 p.g prev.g) (delta8 p.r prev.r - delta8 p.g prev.g) (delta8 p.b prev.b - delta8 p.g prev.g)))
    (rgb : p.a = prev.a → motive (.rgb p.r p.g p.b))
    (rgba : motive (.rgba p.r p.g p.b p.a)) : motive (chooseLiteral prev p) := by
  by_cases ha : p.a = prev.a
  case neg => exact chooseLiteral_of_alpha_ne ha ▸ rgba
  by_cases hd : fitsDiff (pdelta p prev) = true
  · exact chooseLiteral_of_fitsDiff hd ▸ diff ha hd
  by_cases hl : fitsLuma (pdelta p prev) = true
  · exact chooseLiteral_of_fitsLuma hd hl ▸ luma ha hl
  · exact chooseLiteral_of_alpha_eq hd hl ha ▸ rgb ha

end

/-- Settles O46: the rule's clauses are the branches of `chooseLiteral` in their order. -/
theorem literalPriority : Obligations.LiteralPriority := by
  intro prev p
  refine ⟨chooseLiteral_of_alpha_ne, fun ha => ?_⟩
  intro dr dg db
  rw [← fitsDiff_pdelta_iff ha, ← fitsLuma_pdelta_iff ha]
  exact ⟨chooseLiteral_of_fitsDiff, fun hd =>
    ⟨chooseLiteral_of_fitsLuma hd, fun hl => chooseLiteral_of_alpha_eq hd hl ha⟩⟩

end Sys2Proof.Machine

/-! The chosen chunk has an encoding and puts its pixel (44_encode R237 to R240 against 43_decode R185 to R188). -/

namespace Sys2Proof.Machine

theorem exec_diff (dr dg db : Int) (s : State) :
    exec (.diff dr dg db) s = .next (advance 1 (put (padd s.prev dr dg db) s)) := rfl

theorem exec_luma (dg drg dbg : Int) (s : State) :
    exec (.luma dg drg dbg) s = .next (advance 2 (put (padd s.prev (dg + drg) dg (dg + dbg)) s)) := rfl

theorem exec_rgb (r g b : Byte) (s : State) :
    exec (.rgb r g b) s = .next (advance 4 (put ⟨r, g, b, s.prev.a⟩ s)) := rfl

theorem exec_rgba (r g b a : Byte) (s : State) :
    exec (.rgba r g b a) s = .next (advance 5 (put ⟨r, g, b, a⟩ s)) := rfl

/-- `put` and `advance` together are one pixel put by a chunk of `len` bytes (43_decode R190). -/
theorem putsOne_advance_put (p : Pixel) (len : Nat) (s : State) : PutsOne p len s (advance len (put p s)) where
  prev := rfl
  outPos := rfl
  inPos := rfl
  written := Buffer.read_write_same _ _ _
  others _ ha := Buffer.read_write_other _ _ ha
  frame := by constructor <;> rfl

/-- A chunk whose meaning is to put `p` and skip its own bytes puts exactly `p`. -/
theorem putsOne_of_exec {i : Instr} {p : Pixel} {s : State} (h : exec i s = .next (advance i.kind.size (put p s))) :
    ∃ t, exec i s = .next t ∧ PutsOne p i.kind.size s t :=
  ⟨_, h, putsOne_advance_put p _ s⟩

/-- The encoder's windows are the assembler's operand ranges, and the literals have no check. -/
theorem chooseLiteral_wellFormed (prev p : Pixel) : (chooseLiteral prev p).WellFormed = true := by
  apply chooseLiteral_cases (motive := fun i => i.WellFormed = true)
  case diff =>
    intro ha hd
    simpa [and_assoc] using (fitsDiff_pdelta_iff ha).1 hd
  case luma =>
    intro ha hl
    simpa [and_assoc] using (fitsLuma_pdelta_iff ha).1 hl
  case rgb => exact fun _ => rfl
  case rgba => rfl

/-- The chosen chunk's meaning is to put the pixel it was chosen for. RGB carries the alpha of `prev`, which is then the
pixel's own. -/
theorem exec_chooseLiteral (p : Pixel) (s : State) :
    exec (chooseLiteral s.prev p) s = .next (advance (chooseLiteral s.prev p).kind.size (put p s)) := by
  apply chooseLiteral_cases (motive := fun i => exec i s = .next (advance i.kind.size (put p s)))
  case diff =>
    intro ha _
    rw [exec_diff, padd_delta8 ha]
    rfl
  case luma =>
    intro ha _
    rw [exec_luma, add_sub_cancel, add_sub_cancel, padd_delta8 ha]
    rfl
  case rgb =>
    intro ha
    rw [exec_rgb, ← ha]
    rfl
  case rgba => exact exec_rgba p.r p.g p.b p.a s

/-- Settles O47: the operands chosen are in range, and the chunk's meaning puts the pixel. -/
theorem chosenChunkReproducesPixel : Obligations.ChosenChunkReproducesPixel :=
  fun p s => ⟨chooseLiteral_wellFormed s.prev p, putsOne_of_exec (exec_chooseLiteral p s)⟩

end Sys2Proof.Machine

/-! The pixel cache (41_pixel_cache): what the hash is in numbers, and what a store of the state writes. -/

namespace Sys2Proof.Machine

/-- A channel and its signed reading differ by 0 or 256, which 64 divides (41_pixel_cache R131). -/
theorem sext8_modEq (v : Byte) : sext8 v ≡ v.toNat [ZMOD 64] := by
  rw [sext8_eq]
  split
  · rfl
  · exact Int.modEq_iff_dvd.2 (by omega)

/-- The linear form with signed channels is congruent to the one with unsigned channels, term by term. -/
theorem hash_sum_modEq (k : HashCoeffs) (p : Pixel) :
    k.kR * sext8 p.r + k.kG * sext8 p.g + k.kB * sext8 p.b + k.kA * sext8 p.a ≡
      k.kR * p.r.toNat + k.kG * p.g.toNat + k.kB * p.b.toNat + k.kA * p.a.toNat [ZMOD 64] :=
  ((((sext8_modEq p.r).mul_left _).add ((sext8_modEq p.g).mul_left _)).add
    ((sext8_modEq p.b).mul_left _)).add ((sext8_modEq p.a).mul_left _)

/-- 41_pixel_cache R137: every term of the sum is 0, whatever the coefficients. -/
@[simp] theorem hash_zero (k : HashCoeffs) : hash k Pixel.zero = 0 := by
  apply BitVec.eq_of_toNat_eq
  rw [hash_toNat]
  simp [Pixel.zero]

/-- Settles O11: modulo 64 both readings of the channels give one sum. -/
theorem hashIgnoresSignedness : Obligations.HashIgnoresSignedness := by
  intro k p
  rw [(hash_sum_modEq k p).eq, hash_toNat]
  push_cast
  rfl

/-- Settles O10: the linear form is `hash_toNat`, the zero pixel `hash_zero`. -/
theorem hashIsLinearModulo64 : Obligations.HashIsLinearModulo64 := ⟨hash_toNat, hash_zero⟩

/-- Settles O12: a lookup sees the write in slot `i` only, and with the old cache put back the state is the old one. -/
theorem storeWritesOneSlot : Obligations.StoreWritesOneSlot :=
  fun i j p s => ⟨lookup_cacheStore s.cache i j p, rfl⟩

end Sys2Proof.Machine

/-! The header codec (42_header R154): both functions relate exactly the same tuples and strings. -/

namespace Sys2Proof.Machine

/-- Four base-256 digits stay below 2^32, so `unbe32` loses nothing (42_header R152). -/
theorem unbe32_toNat (b0 b1 b2 b3 : Byte) : (unbe32 b0 b1 b2 b3).toNat =
    b0.toNat * 2 ^ 24 + b1.toNat * 2 ^ 16 + b2.toNat * 2 ^ 8 + b3.toNat := by
  have h0 := b0.isLt
  have h1 := b1.isLt
  have h2 := b2.isLt
  have h3 := b3.isLt
  rw [unbe32, BitVec.toNat_ofNat, Nat.mod_eq_of_lt]
  omega

/-- 00_scope R8: `be32` gives the base-256 digits of the word, most significant first; digits are unique. -/
theorem be32_eq_iff {v : U32} {b0 b1 b2 b3 : Byte} : be32 v = [b0, b1, b2, b3] ↔
    v.toNat = b0.toNat * 2 ^ 24 + b1.toNat * 2 ^ 16 + b2.toNat * 2 ^ 8 + b3.toNat := by
  have hv := v.isLt
  have h0 := b0.isLt
  have h1 := b1.isLt
  have h2 := b2.isLt
  have h3 := b3.isLt
  simp only [be32, List.cons.injEq, and_true, ← BitVec.toNat_inj, BitVec.extractLsb'_toNat,
    Nat.shiftRight_eq_div_pow]
  omega

@[simp] theorem be32_unbe32 (b0 b1 b2 b3 : Byte) : be32 (unbe32 b0 b1 b2 b3) = [b0, b1, b2, b3] :=
  be32_eq_iff.2 (unbe32_toNat b0 b1 b2 b3)

/-- `unbe32` undoes `be32`, whose four bytes stand here one by one. -/
theorem unbe32_be32 (v : U32) :
    unbe32 (v.extractLsb' 24 8) (v.extractLsb' 16 8) (v.extractLsb' 8 8) (v.extractLsb' 0 8) = v :=
  BitVec.eq_of_toNat_eq ((unbe32_toNat _ _ _ _).trans (be32_eq_iff.1 rfl).symm)

/-- 42_header R150: what the serializer relates. -/
theorem headerEncode_eq_ok_iff {h : Header} {bytes : List Byte} : headerEncode h = .ok bytes ↔
    legalChannels h.channels = true ∧ legalColorSpace h.colorSpace = true ∧
      bytes = magic ++ be32 h.width ++ be32 h.height ++ [h.channels] ++ [h.colorSpace] := by
  refine ⟨headerEncode_ok, fun ⟨hc, hs, hb⟩ => ?_⟩
  simp [headerEncode, hc, hs, hb]

/-- 42_header R151: the deserializer answers only on the serialized form of a legal tuple. -/
theorem headerDecode_ok {h : Header} {bytes : List Byte} (hd : headerDecode bytes = .ok h) :
    legalChannels h.channels = true ∧ legalColorSpace h.colorSpace = true ∧
      bytes = magic ++ be32 h.width ++ be32 h.height ++ [h.channels] ++ [h.colorSpace] := by
  unfold headerDecode at hd
  split at hd
  case h_2 => cases hd
  case h_1 m0 m1 m2 m3 w0 w1 w2 w3 h0 h1 h2 h3 c cs =>
    split_ifs at hd with hm hc hs
    cases hd
    have hmagic : magic = [m0, m1, m2, m3] := (not_not.1 hm).symm
    refine ⟨by simpa using hc, by simpa using hs, ?_⟩
    rw [hmagic, be32_unbe32, be32_unbe32]
    rfl

/-- 42_header R151: the deserializer answers on the serialized form of every legal tuple. -/
theorem headerDecode_of_legal {h : Header} (hc : legalChannels h.channels = true)
    (hs : legalColorSpace h.colorSpace = true) :
    headerDecode (magic ++ be32 h.width ++ be32 h.height ++ [h.channels] ++ [h.colorSpace]) = .ok h := by
  simp [headerDecode, magic, be32, unbe32_be32, hc, hs]

/-- 42_header R151: what the deserializer relates, in the serializer's words. -/
theorem headerDecode_eq_ok_iff {h : Header} {bytes : List Byte} : headerDecode bytes = .ok h ↔
    legalChannels h.channels = true ∧ legalColorSpace h.colorSpace = true ∧
      bytes = magic ++ be32 h.width ++ be32 h.height ++ [h.channels] ++ [h.colorSpace] :=
  ⟨headerDecode_ok, fun ⟨hc, hs, hb⟩ => hb ▸ headerDecode_of_legal hc hs⟩

/-- The two functions relate the same tuples and strings. -/
theorem headerDecode_eq_ok_iff_headerEncode {h : Header} {bytes : List Byte} :
    headerDecode bytes = .ok h ↔ headerEncode h = .ok bytes :=
  headerDecode_eq_ok_iff.trans headerEncode_eq_ok_iff.symm

/-- Settles O36: the header codec's two functions have the same graph. -/
theorem headerRoundTrip : Obligations.HeaderRoundTrip :=
  ⟨fun _ _ => headerDecode_eq_ok_iff_headerEncode.2, fun _ _ => headerDecode_eq_ok_iff_headerEncode.1⟩

end Sys2Proof.Machine

/-! Steps of a run, and which operation of the engine a step is. -/

namespace Sys2Proof.Machine

@[simp] theorem runFor_zero (s : State) : runFor 0 s = .next s := rfl

theorem runFor_succ_of_step {s t : State} (h : step s = .next t) (k : Nat) : runFor (k + 1) s = runFor k t := by
  simp only [runFor, h]

section
variable {s : State}

theorem afterTurn_of_turns_nil (h : s.turns = []) : afterTurn s = s := by
  rw [afterTurn, restTurns, h, List.tail_nil, ← h]

theorem step_of_engineMoves (h : EngineMoves s) : step s = engineTurn (afterTurn s) := by
  obtain h | ⟨rest, h⟩ := h
  · rw [afterTurn_of_turns_nil h, step, h]
  · simp only [step, afterTurn, restTurns, h, List.tail_cons]

theorem step_of_busy (hb : s.phase = .busy) (hm : EngineMoves s) : step s = engineStep (afterTurn s) :=
  (step_of_engineMoves hm).trans (if_pos hb)

theorem engineStep_start {c : Command} (hc : s.cmd = some c) (hs : s.stage = .start) :
    engineStep s = startCommand c s := by
  rw [engineStep, hc, hs]

theorem engineStep_decode {c : Command} (hc : s.cmd = some c) (hs : s.stage = .decode) :
    engineStep s = if s.outPos < s.n then decodeStep s else finishDecode c s := by
  rw [engineStep, hc, hs]

theorem step_of_issued {c : Command} (h : Issued c s) : step s = startCommand c (afterTurn s) :=
  (step_of_busy h.busy h.moves).trans (engineStep_start (s := afterTurn s) h.command h.stage)

/-- With pixels still to come the decode loop takes a chunk. -/
theorem step_of_pixels_left (h : Running .decode s) (hn : s.outPos < s.n) : step s = decodeStep (afterTurn s) := by
  obtain ⟨c, hc⟩ := Option.ne_none_iff_exists'.1 h.command
  rw [step_of_busy h.busy h.moves, engineStep_decode (s := afterTurn s) hc h.stage]
  exact if_pos hn

/-- With no pixel to come the decode loop ends. -/
theorem step_of_pixels_done {c : Command} (h : Running .decode s) (hc : s.cmd = some c) (hn : s.n ≤ s.outPos) :
    step s = finishDecode c (afterTurn s) := by
  rw [step_of_busy h.busy h.moves, engineStep_decode (s := afterTurn s) hc h.stage]
  exact if_neg (Nat.not_lt.2 hn)

end

end Sys2Proof.Machine

/-! The decode loop (43_decode R180 to R197): what a chunk does to the loop, and where the loop ends. -/

namespace Sys2Proof.Machine

section
variable {s t : State}

/-- A decoded RUN has a count of at least 1 (30_encoding R85), so every decoded chunk writes a pixel. -/
theorem pixelsWritten_pos_of_decode {bytes : List Byte} {i : Instr} {rest : List Byte}
    (h : decode bytes = .ok (i, rest)) : 1 ≤ pixelsWritten i := by
  cases i with
  | run c =>
    cases bytes with
    | nil => cases h
    | cons b0 bs =>
      cases hk : chunkKind b0 <;> simp only [decode, hk] at h
      case run => cases h; exact Nat.le_add_left 1 _
      case index | diff => cases h
      case luma | rgb | rgba => split at h <;> cases h
  | index _ | diff _ _ _ | luma _ _ _ | rgb _ _ _ | rgba _ _ _ _ => exact Nat.le_refl 1

theorem chunkKind_size_pos (k : ChunkKind) : 1 ≤ k.size := by cases k <;> decide

/-- A chunk overflows, or moves both counters on by its own amounts inside its frame. -/
theorem Ran.overflow_or_frame {i : Instr} (h : Ran i s t) :
    t = raise .runOverflow s ∨
      ChunkFrame s t ∧ t.inPos = s.inPos + i.kind.size ∧ t.outPos = s.outPos + pixelsWritten i := by
  cases h with
  | one p hp h =>
    subst h
    have hw : pixelsWritten i = 1 := by
      cases i with
      | run c => exact absurd rfl (hp c)
      | index _ | diff _ _ _ | luma _ _ _ | rgb _ _ _ | rgba _ _ _ _ => rfl
    exact .inr ⟨by constructor <;> rfl, rfl, by simp [hw]⟩
  | many c hi hn h =>
    subst hi h
    exact .inr ⟨by constructor <;> rfl, rfl, rfl⟩
  | overflow c hi hn h => exact .inl h

/-- With the payload inside a string IN, a chunk that is not missing can be fetched (20_memory R56). -/
theorem fetchChunk_isSome (hd : Buffer.Dense s.inBuf) (hp : s.payBase + s.payLen ≤ s.inBuf.length)
    (hm : ¬chunkMissing s = true) : ∃ c, fetchChunk s = some c := by
  rw [chunkMissing, Bool.or_eq_true, decide_eq_true_eq, not_or] at hm
  obtain ⟨htag, hlen⟩ := hm
  obtain ⟨b0, hb⟩ := hd.read_isSome (a := s.payBase + s.inPos) (by omega)
  simp only [hb, decide_eq_true_eq] at hlen
  obtain ⟨c, hc, -⟩ := hd.readN_isSome (a := s.payBase + s.inPos) (len := chunkLen b0) (by omega)
  exact ⟨c, by simp only [fetchChunk, hb, if_neg htag, if_neg hlen, hc]⟩

theorem decodeStep_of_missing (h : chunkMissing s = true) : decodeStep s = .next (raise .truncated (refresh s)) :=
  if_pos h

/-- A decode step aborts with ERR_TRUNCATED or runs a decoded chunk; it never faults. -/
theorem decodeStep_isNext (hd : Buffer.Dense s.inBuf) (hp : s.payBase + s.payLen ≤ s.inBuf.length) :
    ∃ t, decodeStep s = .next t := by
  by_cases hm : chunkMissing s = true
  · exact ⟨_, decodeStep_of_missing hm⟩
  · obtain ⟨c, hf⟩ := fetchChunk_isSome hd hp hm
    obtain ⟨-, -, i, -, -, -, -, hi, -⟩ := fetchChunk_some hf
    rw [decodeStep_of_fetch hf hi]
    exact exec_isNext i _

theorem finishDecode_of_unread (c : Command) (h : s.inPos ≠ s.payLen) :
    finishDecode c s = .next (raise .trailing s) :=
  if_pos h

theorem finishDecode_decode {count : Nat} (h : s.inPos = s.payLen) :
    finishDecode (.decode count) s = .next (complete none none s) :=
  if_neg (not_not.2 h)

/-- The end of a decode loop is DONE or an abort. -/
theorem finishDecode_ends (c : Command) (s : State) :
    ∃ t, finishDecode c s = .next t ∧ (t.phase = .done ∨ t.phase = .error) := by
  by_cases h : s.inPos = s.payLen
  · have hread : ¬s.inPos ≠ s.payLen := not_not.2 h
    cases c <;> exact ⟨_, if_neg hread, .inl rfl⟩
  · exact ⟨_, finishDecode_of_unread c h, .inr rfl⟩

end

/-! ### Termination (43_decode R193) -/

/-- A decode loop that the engine runs alone, its payload inside IN: the part of `Inv` that termination needs. -/
structure DecodeLoop (s : State) : Prop where
  busy : s.phase = .busy
  stage : s.stage = .decode
  command : s.cmd ≠ none
  turns : s.turns = []
  in_dense : Buffer.Dense s.inBuf
  payload_in : s.payBase + s.payLen ≤ s.inBuf.length

/-- `min(n, |P|)` of 43_decode R193, counted from the present state: what every completing step lowers. -/
def stepsLeft (s : State) : Nat := min (s.n - s.outPos) (s.payLen - s.inPos)

section
variable {s t : State}

theorem DecodeLoop.running (h : DecodeLoop s) : Running .decode s := ⟨h.busy, h.stage, h.command, .inl h.turns⟩

theorem DecodeLoop.of_inv (hi : Inv s) (hb : s.phase = .busy) (hs : s.stage = .decode) (ht : s.turns = []) :
    DecodeLoop s :=
  ⟨hb, hs, hi.has_command hb, ht, hi.in_dense, (hi.decoding hb hs).payload_in⟩

theorem DecodeLoop.refreshed (h : DecodeLoop s) : DecodeLoop (refresh s) :=
  ⟨h.busy, h.stage, h.command, h.turns, h.in_dense, h.payload_in⟩

/-- A chunk that completes stays in the loop. -/
theorem DecodeLoop.of_chunkFrame (h : DecodeLoop s) (hf : ChunkFrame s t) : DecodeLoop t where
  busy := hf.phase.trans h.busy
  stage := hf.stage.trans h.stage
  command := hf.cmd ▸ h.command
  turns := hf.turns.trans h.turns
  in_dense := hf.inBuf ▸ h.in_dense
  payload_in := by rw [hf.payBase, hf.payLen, hf.inBuf]; exact h.payload_in

/-- A decode step with pixels to come aborts, or stays in the loop with fewer steps left: a completed chunk has taken a
byte of the payload and written a pixel. -/
theorem DecodeLoop.decodeStep_progress (h : DecodeLoop s) (hn : s.outPos < s.n) (ht : decodeStep s = .next t) :
    t.phase = .error ∨ DecodeLoop t ∧ stepsLeft t < stepsLeft s := by
  obtain ⟨-, rfl⟩ | ⟨c, i, hf, hd, he⟩ := decodeStep_next ht
  · exact .inl rfl
  obtain rfl | ⟨hframe, hin, hout⟩ := (exec_next he).overflow_or_frame
  · exact .inl rfl
  refine .inr ⟨h.refreshed.of_chunkFrame hframe, ?_⟩
  have hbyte := chunkKind_size_pos i.kind
  have hpixel := pixelsWritten_pos_of_decode hd
  obtain ⟨b0, -, -, -, -, -, hpay, -, -⟩ := fetchChunk_some hf
  have hlen := chunkLen_pos b0
  rw [stepsLeft, stepsLeft, hframe.n, hframe.payLen, hin, hout]
  simp only [refresh_n, refresh_payLen, refresh_inPos, refresh_outPos]
  omega

/-- One step of the loop answers, and ends the transaction or lowers the number of steps left. -/
theorem DecodeLoop.step_progress (h : DecodeLoop s) : ∃ t, step s = .next t ∧
    ((t.phase = .done ∨ t.phase = .error) ∨ DecodeLoop t ∧ stepsLeft t < stepsLeft s) := by
  by_cases hn : s.outPos < s.n
  · obtain ⟨t, ht⟩ := decodeStep_isNext h.in_dense h.payload_in
    rw [step_of_pixels_left h.running hn, afterTurn_of_turns_nil h.turns]
    exact ⟨t, ht, (h.decodeStep_progress hn ht).imp_left .inr⟩
  · obtain ⟨c, hc⟩ := Option.ne_none_iff_exists'.1 h.command
    obtain ⟨t, ht, hend⟩ := finishDecode_ends c (afterTurn s)
    exact ⟨t, (step_of_pixels_done h.running hc (Nat.not_lt.1 hn)).trans ht, .inl hend⟩

/-- 43_decode R193: by induction on a bound of the steps left. -/
theorem DecodeLoop.ends {b : Nat} (h : DecodeLoop s) (hb : stepsLeft s ≤ b) :
    ∃ k t, k ≤ b + 1 ∧ runFor k s = .next t ∧ (t.phase = .done ∨ t.phase = .error) := by
  induction b generalizing s with
  | zero =>
    obtain ⟨t, ht, hend | ⟨-, hlt⟩⟩ := h.step_progress
    · exact ⟨1, t, Nat.le_refl 1, runFor_succ_of_step ht 0, hend⟩
    · omega
  | succ b ih =>
    obtain ⟨t, ht, hend | ⟨hloop, hlt⟩⟩ := h.step_progress
    · exact ⟨1, t, Nat.le_add_left 1 _, runFor_succ_of_step ht 0, hend⟩
    · obtain ⟨k, u, hk, hu, hend⟩ := ih hloop (by omega)
      exact ⟨k + 1, u, Nat.succ_le_succ hk, (runFor_succ_of_step ht k).trans hu, hend⟩

end

/-- Settles O55: the invariant puts the state in a `DecodeLoop`, which ends within its own `stepsLeft` and one more. -/
theorem decodeAlwaysEnds : Obligations.DecodeAlwaysEnds :=
  fun _ hi hb hs ht => (DecodeLoop.of_inv hi hb hs ht).ends (Nat.le_refl _)

/-! ### The single chunks -/

/-- Settles O21: DIFF and LUMA go through `padd` and RGB through `prev.a`, which keep alpha; RUN does not write `prev`. -/
theorem alphaChangesOnlyByRgbaOrIndex : Obligations.AlphaChangesOnlyByRgbaOrIndex := by
  intro i s t hrgba hindex hrun ht
  cases i with
  | index _ => exact absurd rfl hindex
  | rgba _ _ _ _ => exact absurd rfl hrgba
  | diff dr dg db => rw [exec_diff] at ht; cases ht; rfl
  | luma dg drg dbg => rw [exec_luma] at ht; cases ht; rfl
  | rgb r g b => rw [exec_rgb] at ht; cases ht; rfl
  | run c =>
    cases exec_next ht with
    | one _ hp _ => exact absurd rfl (hp c)
    | many _ _ _ h => rw [h]; rfl
    | overflow c' hi hn _ => exact absurd (hrun c' hi) (Nat.not_le.2 hn)

/-- The two literal tag bytes have the tag bits of RUN, so other tag bits rule them out (30_encoding R81). -/
theorem ne_literal_of_tagBits {b0 : Byte} (h : tagBits b0 ≠ 0b11) : b0 ≠ 0xFE ∧ b0 ≠ 0xFF :=
  ⟨fun he => h (he ▸ rfl), fun he => h (he ▸ rfl)⟩

theorem chunkKind_of_tagBits_index {b0 : Byte} (h : tagBits b0 = 0b00) : chunkKind b0 = .index := by
  obtain ⟨hrgb, hrgba⟩ := ne_literal_of_tagBits (b0 := b0) (by rw [h]; decide)
  rw [chunkKind, if_neg hrgb, if_neg hrgba, if_pos h]

theorem chunkKind_of_tagBits_luma {b0 : Byte} (h : tagBits b0 = 0b10) : chunkKind b0 = .luma := by
  obtain ⟨hrgb, hrgba⟩ := ne_literal_of_tagBits (b0 := b0) (by rw [h]; decide)
  rw [chunkKind, if_neg hrgb, if_neg hrgba, h]
  rfl

theorem exec_index (i : BitVec 6) (s : State) : exec (.index i) s = .next (advance 1 (put (lookup s.cache i) s)) := rfl

/-- Settles O13: the tag bits 00 select INDEX with the field `b0[5:0]`, whose meaning is one `put` of the slot's pixel. -/
theorem indexPutsCachedPixel : Obligations.IndexPutsCachedPixel := by
  refine ⟨fun b0 h => ?decoding, fun i s => putsOne_of_exec (exec_index i s)⟩
  case decoding => simp only [decode, chunkKind_of_tagBits_index h, field6]

/-- The refresh writes the cache alone, so an abort after it is an abort of the state before it. -/
theorem aborted_raise_refresh (code : ErrCode) (s : State) : Aborted code s (raise code (refresh s)) := by
  constructor <;> rfl

/-- 60_exceptions R305: with pixels to come, a missing chunk aborts with ERR_TRUNCATED. -/
theorem step_aborts_of_missing {s : State} (h : Running .decode s) (hn : s.outPos < s.n)
    (hm : chunkMissing s = true) : ∃ t, step s = .next t ∧ Aborted .truncated (afterTurn s) t :=
  ⟨_, (step_of_pixels_left h hn).trans (decodeStep_of_missing (s := afterTurn s) hm), aborted_raise_refresh _ _⟩

theorem chunkMissing_of_short {s : State} {b0 : Byte} (hr : Buffer.read s.inBuf (s.payBase + s.inPos) = some b0)
    (hl : s.payLen < s.inPos + chunkLen b0) : chunkMissing s = true := by
  simp [chunkMissing, hr, hl]

/-- Settles O15: the tag bits 10 select LUMA, whose meaning is one `put`; its declared length is 2, so a lone tag byte is
cut short. -/
theorem lumaPutsDeltaPixel : Obligations.LumaPutsDeltaPixel := by
  refine ⟨fun b0 b1 h => ?decoding, fun dg drg dbg s => putsOne_of_exec (exec_luma dg drg dbg s),
    fun s b0 hrun hn hlast hread htag => ?short⟩
  case decoding => simp only [decode, chunkKind_of_tagBits_luma h, greenField, field4]
  case short =>
    have hlen : chunkLen b0 = 2 := by rw [chunkLen_eq_size, chunkKind_of_tagBits_luma htag]; rfl
    refine step_aborts_of_missing hrun hn (chunkMissing_of_short hread ?_)
    omega

/-! ### The refresh -/

/-- A refresh of a cache that holds `prev` at its slot changes nothing (41_pixel_cache R133). -/
theorem refresh_eq_self {s : State} (h : lookup s.cache (hash s.cfg.hashCoeffs s.prev) = s.prev) : refresh s = s := by
  have hc : cacheStore s.cache (hash s.cfg.hashCoeffs s.prev) s.prev = s.cache :=
    (congrArg (cacheStore _ _) h.symm).trans (cacheStore_same _ _)
  rw [refresh, store, hc]

theorem lookup_refresh_prev (s : State) : lookup (refresh s).cache (hash s.cfg.hashCoeffs s.prev) = s.prev :=
  lookup_cacheStore_same _ _ _

/-- Settles O25: the refresh stores `prev` at its slot, and a run changes neither `prev` nor the cache. -/
theorem refreshOncePerChunkSuffices : Obligations.RefreshOncePerChunkSuffices := fun s =>
  ⟨lookup_refresh_prev s, fun _ hj => lookup_cacheStore_other _ _ hj.symm, rfl,
    refresh_eq_self (lookup_refresh_prev s), fun _ => refresh_eq_self (lookup_refresh_prev s)⟩

/-! ### No pixels (43_decode R194) -/

theorem overCapacity_zero (c : Config) : overCapacity c 0 = false := by
  unfold overCapacity
  split <;> simp

/-- DECODE of no pixels starts its loop on all of IN: no capacity is passed. -/
theorem step_issued_decode_zero {s : State} (h : Issued (.decode 0) s) (ht : s.turns = []) (hw : s.cfg.posWidth = none) :
    step s = .next (initDecode 0 (Buffer.size s.inBuf) 0 s) := by
  rw [step_of_issued h, afterTurn_of_turns_nil ht]
  simp [startCommand, startDecodeCmd, overCapacity_zero, startDecode, fitsPosWidth_none hw]

/-- The second transition of a DECODE of no pixels is the end of its loop. -/
theorem step_initDecode_zero {s : State} (h : Issued (.decode 0) s) (ht : s.turns = []) (base len : Nat) :
    step (initDecode base len 0 s) = finishDecode (.decode 0) (initDecode base len 0 s) := by
  have hc : (initDecode base len 0 s).cmd = some (.decode 0) := h.command
  have hrun : Running .decode (initDecode base len 0 s) := ⟨h.busy, rfl, by rw [hc]; simp, .inl ht⟩
  have hstep := step_of_pixels_done hrun hc (Nat.le_refl 0)
  rwa [afterTurn_of_turns_nil (s := initDecode base len 0 s) ht] at hstep

/-- No pixels of PIXOUT are a result of a finished DECODE of no pixels. -/
theorem readPixOut_of_decode_zero {s : State} (hp : s.phase = .done) (hc : s.cmd = some (.decode 0)) :
    readPixOut s = .ok [] := by
  simp [readPixOut, resultPixels, hp, hc, Buffer.readN]

/-- Settles O57: the loop starts with no pixel to come and ends at once, by whether IN is empty. -/
theorem emptyImage : Obligations.EmptyImage := by
  intro s h ht hw
  have hstart := step_issued_decode_zero h ht hw
  have hend := step_initDecode_zero h ht 0 (Buffer.size s.inBuf)
  refine ⟨fun hempty => ?done, fun hbytes => ?trailing⟩
  case done =>
    have hdone := hend.trans (finishDecode_decode hempty.symm)
    exact ⟨_, (runFor_succ_of_step hstart 1).trans (runFor_succ_of_step hdone 0), rfl,
      readPixOut_of_decode_zero rfl h.command⟩
  case trailing =>
    have habort := hend.trans (finishDecode_of_unread _ (Ne.symm hbytes))
    exact ⟨_, (runFor_succ_of_step hstart 1).trans (runFor_succ_of_step habort 0), rfl, rfl⟩

end Sys2Proof.Machine

/-! A packed chunk decodes to itself (30_encoding R88, R91): the decoder reads back the biased fields. -/

namespace Sys2Proof

theorem encodeStart_statement (i : Instr) : Laws.EncodeStart.Statement i := by
  cases i with
  | index i => exact Laws.EncodeStart.index i
  | diff dr dg db => exact Laws.EncodeStart.diff dr dg db
  | luma dg drg dbg => exact Laws.EncodeStart.luma dg drg dbg
  | run c => exact Laws.EncodeStart.run c
  | rgb r g b => exact Laws.EncodeStart.rgb r g b
  | rgba r g b a => exact Laws.EncodeStart.rgba r g b a

theorem field6_index (i : BitVec 6) : field6 (i.setWidth 8) = i := by
  revert i
  decide

/-- DIFF's three fields over its 64 operand triples. -/
theorem fields_diff {dr dg db : Int} (hr : DiffOperandOk dr) (hg : DiffOperandOk dg) (hb : DiffOperandOk db) :
    let b0 : Byte :=
      0x40 ||| (BitVec.ofInt 8 (dr + 2) <<< 4) ||| (BitVec.ofInt 8 (dg + 2) <<< 2) ||| BitVec.ofInt 8 (db + 2)
    field2 b0 4 = dr ∧ field2 b0 2 = dg ∧ field2 b0 0 = db := by
  obtain ⟨hr, hr'⟩ := hr
  obtain ⟨hg, hg'⟩ := hg
  obtain ⟨hb, hb'⟩ := hb
  interval_cases dr <;> interval_cases dg <;> interval_cases db <;> decide

theorem greenField_luma {dg : Int} (h : LumaGreenOk dg) :
    greenField (0x80 ||| BitVec.ofInt 8 (dg + 32)) = dg := by
  obtain ⟨h, h'⟩ := h
  interval_cases dg <;> rfl

/-- LUMA's two cross fields over its 256 operand pairs. -/
theorem field4_luma {drg dbg : Int} (hr : LumaCrossOk drg) (hb : LumaCrossOk dbg) :
    let b1 : Byte := (BitVec.ofInt 8 (drg + 8) <<< 4) ||| BitVec.ofInt 8 (dbg + 8)
    field4 b1 4 = drg ∧ field4 b1 0 = dbg := by
  obtain ⟨hr, hr'⟩ := hr
  obtain ⟨hb, hb'⟩ := hb
  interval_cases drg <;> interval_cases dbg <;> decide

theorem field6_run {c : Nat} (h : RunCountOk c) : (field6 (0xC0 ||| BitVec.ofNat 8 (c - 1))).toNat + 1 = c := by
  obtain ⟨h, h'⟩ := h
  interval_cases c <;> rfl

/-- The tag byte selects the chunk's own kind, and the fields read back are the operands. -/
theorem decode_encode_append {i : Instr} (h : i.WellFormed = true) (rest : List Byte) :
    decode (encode i ++ rest) = .ok (i, rest) := by
  obtain ⟨b0, bs, he, hk, -⟩ := encodeStart_statement i h
  cases i with
  | index i =>
    cases he
    simp only [encode, List.singleton_append, decode, hk, Instr.kind, field6_index]
  | diff dr dg db =>
    cases he
    simp only [Instr.WellFormed, Bool.and_eq_true, decide_eq_true_eq] at h
    obtain ⟨⟨hr, hg⟩, hb⟩ := h
    obtain ⟨fr, fg, fb⟩ := fields_diff hr hg hb
    simp only [encode, List.singleton_append, decode, hk, Instr.kind, fr, fg, fb]
  | luma dg drg dbg =>
    cases he
    simp only [Instr.WellFormed, Bool.and_eq_true, decide_eq_true_eq] at h
    obtain ⟨⟨hg, hr⟩, hb⟩ := h
    obtain ⟨fr, fb⟩ := field4_luma hr hb
    simp only [encode, List.cons_append, List.nil_append, decode, hk, Instr.kind, greenField_luma hg, fr, fb]
  | run c =>
    cases he
    simp only [encode, List.singleton_append, decode, hk, Instr.kind, field6_run (of_decide_eq_true h)]
  | rgb r g b => rfl
  | rgba r g b a => rfl

theorem decode_encode {i : Instr} (h : i.WellFormed = true) : decode (encode i) = .ok (i, []) := by
  simpa using decode_encode_append h []

end Sys2Proof

/-! One pixel of the encode loop (44_encode R231 to R241): what it appends, and what else it writes. -/

namespace Sys2Proof.Machine

section
variable {s t u : State}

/-! ### Appending to OUT -/

theorem appends_nil (hd : Buffer.Dense s.outBuf) : Appends [] s s where
  out := (List.append_nil _).symm
  outBuf := by rw [List.append_nil]; exact hd.eq_ofList

theorem appends_emit (hd : Buffer.Dense s.outBuf) (bytes : List Byte) : Appends bytes s (emit bytes s) where
  out := rfl
  outBuf := by
    have hsize : Buffer.size s.outBuf = (Buffer.toList s.outBuf).length := List.length_map _ |>.symm
    rw [emit_outBuf, hsize]
    conv_lhs => rw [hd.eq_ofList]
    rw [Buffer.toList_ofList, Buffer.writeN_ofList_end]

theorem Appends.dense {bytes : List Byte} (h : Appends bytes s t) : Buffer.Dense t.outBuf :=
  h.outBuf ▸ Buffer.dense_ofList _

theorem Appends.trans {xs ys : List Byte} (h : Appends xs s t) (h' : Appends ys t u) : Appends (xs ++ ys) s u where
  out := by rw [h'.out, h.out, List.append_assoc]
  outBuf := by rw [h'.outBuf, h.outBuf, Buffer.toList_ofList, List.append_assoc]

/-! ### The three outcomes of `encodePixel` -/

theorem encodePixel_prev_flushed (h : s.run + 1 = 62 ∨ s.pixPos + 1 = s.n) :
    encodePixel s.prev s = { flushRun { s with run := s.run + 1 } with pixPos := s.pixPos + 1 } := by
  simp only [encodePixel, continueRun, if_pos h, if_true]

theorem encodePixel_prev_open (h : ¬(s.run + 1 = 62 ∨ s.pixPos + 1 = s.n)) :
    encodePixel s.prev s = { s with run := s.run + 1, pixPos := s.pixPos + 1 } := by
  simp only [encodePixel, continueRun, if_neg h, if_true]

theorem encodePixel_of_ne {p : Pixel} (h : p ≠ s.prev) :
    encodePixel p s = { encodeNew p (flushOpenRun s) with pixPos := s.pixPos + 1 } := by
  simp only [encodePixel, if_neg h]

/-- What holds of each of the three outcomes holds of the one that comes about. -/
theorem encodePixel_cases {motive : Pixel → State → Prop} (s : State) (p : Pixel)
    (flushed : s.run + 1 = 62 ∨ s.pixPos + 1 = s.n →
      motive s.prev { flushRun { s with run := s.run + 1 } with pixPos := s.pixPos + 1 })
    (stillOpen : ¬(s.run + 1 = 62 ∨ s.pixPos + 1 = s.n) →
      motive s.prev { s with run := s.run + 1, pixPos := s.pixPos + 1 })
    (differs : p ≠ s.prev → motive p { encodeNew p (flushOpenRun s) with pixPos := s.pixPos + 1 }) :
    motive p (encodePixel p s) := by
  by_cases hp : p = s.prev
  case neg => exact encodePixel_of_ne hp ▸ differs hp
  subst hp
  by_cases hf : s.run + 1 = 62 ∨ s.pixPos + 1 = s.n
  · exact encodePixel_prev_flushed hf ▸ flushed hf
  · exact encodePixel_prev_open hf ▸ stillOpen hf

theorem pixelFrame_encodePixel (p : Pixel) (s : State) : PixelFrame s (encodePixel p s) := by
  constructor <;> simp [encodePixel_fields]

theorem encodePixel_pixPos (p : Pixel) (s : State) : (encodePixel p s).pixPos = s.pixPos + 1 := rfl

/-! ### flushRun, flushOpenRun -/

@[simp] theorem flushRun_run (s : State) : (flushRun s).run = 0 := rfl

@[simp] theorem flushRun_out (s : State) : (flushRun s).out = s.out ++ encode (.run s.run) := rfl

theorem flushOpenRun_of_pos (h : 0 < s.run) : flushOpenRun s = flushRun s := if_pos h

theorem flushOpenRun_of_zero (h : s.run = 0) : flushOpenRun s = s := if_neg (by omega)

theorem flushBytes_of_pos (h : 0 < s.run) : flushBytes s = encode (.run s.run) := if_pos h

theorem flushBytes_of_zero (h : s.run = 0) : flushBytes s = [] := if_neg (by omega)

theorem appends_flushRun (hd : Buffer.Dense s.outBuf) : Appends (encode (.run s.run)) s (flushRun s) :=
  have h := appends_emit hd (encode (.run s.run))
  ⟨h.out, h.outBuf⟩

theorem appends_flushOpenRun (hd : Buffer.Dense s.outBuf) : Appends (flushBytes s) s (flushOpenRun s) := by
  obtain hrun | hrun := Nat.eq_zero_or_pos s.run
  · rw [flushOpenRun_of_zero hrun, flushBytes_of_zero hrun]
    exact appends_nil hd
  · rw [flushOpenRun_of_pos hrun, flushBytes_of_pos hrun]
    exact appends_flushRun hd

@[simp] theorem flushOpenRun_run (s : State) : (flushOpenRun s).run = 0 := by
  obtain hrun | hrun := Nat.eq_zero_or_pos s.run
  · rw [flushOpenRun_of_zero hrun, hrun]
  · rw [flushOpenRun_of_pos hrun, flushRun_run]

@[simp] theorem flushOpenRun_out (s : State) : (flushOpenRun s).out = s.out ++ flushBytes s := by
  obtain hrun | hrun := Nat.eq_zero_or_pos s.run
  · rw [flushOpenRun_of_zero hrun, flushBytes_of_zero hrun, List.append_nil]
  · rw [flushOpenRun_of_pos hrun, flushBytes_of_pos hrun, flushRun_out]

/-- The flush leaves the cache, `prev` and the parameters alone, so it does not change the choice of the next chunk. -/
theorem flushOpenRun_keeps (s : State) : (flushOpenRun s).cfg = s.cfg ∧ (flushOpenRun s).cache = s.cache ∧
    (flushOpenRun s).prev = s.prev := by
  unfold flushOpenRun
  split <;> exact ⟨rfl, rfl, rfl⟩

@[simp] theorem pixelChunk_flushOpenRun (p : Pixel) (s : State) : pixelChunk p (flushOpenRun s) = pixelChunk p s := by
  simp only [pixelChunk, flushOpenRun_keeps]

/-! ### encodeNew -/

theorem encodeNew_of_hit {p : Pixel} (h : lookup s.cache (hash s.cfg.hashCoeffs p) = p) :
    encodeNew p s = { emit (encode (pixelChunk p s)) s with prev := p } := by
  simp only [encodeNew, pixelChunk, if_pos h]

theorem encodeNew_of_miss {p : Pixel} (h : lookup s.cache (hash s.cfg.hashCoeffs p) ≠ p) :
    encodeNew p s = { emit (encode (pixelChunk p s)) (store (hash s.cfg.hashCoeffs p) p s) with prev := p } := by
  simp only [encodeNew, pixelChunk, if_neg h]

theorem appends_encodeNew (hd : Buffer.Dense s.outBuf) (p : Pixel) :
    Appends (encode (pixelChunk p s)) s (encodeNew p s) := by
  have ha := appends_emit hd (encode (pixelChunk p s))
  by_cases h : lookup s.cache (hash s.cfg.hashCoeffs p) = p
  · rw [encodeNew_of_hit h]
    exact ⟨ha.out, ha.outBuf⟩
  · rw [encodeNew_of_miss h]
    exact ⟨ha.out, ha.outBuf⟩

@[simp] theorem encodeNew_prev (p : Pixel) (s : State) : (encodeNew p s).prev = p := by
  unfold encodeNew
  split <;> rfl

@[simp] theorem encodeNew_cfg (p : Pixel) (s : State) : (encodeNew p s).cfg = s.cfg := by
  unfold encodeNew
  split <;> rfl

@[simp] theorem encodeNew_run (p : Pixel) (s : State) : (encodeNew p s).run = s.run := by
  unfold encodeNew
  split <;> rfl

@[simp] theorem encodeNew_out (p : Pixel) (s : State) :
    (encodeNew p s).out = s.out ++ encode (pixelChunk p s) := by
  by_cases h : lookup s.cache (hash s.cfg.hashCoeffs p) = p
  · rw [encodeNew_of_hit h]; rfl
  · rw [encodeNew_of_miss h]; rfl

/-- On a hit the slot already holds the pixel, so hit and miss leave the same lookups (44_encode R235, R236). -/
theorem lookup_encodeNew (p : Pixel) (s : State) (j : BitVec 6) :
    lookup (encodeNew p s).cache j = if j = hash s.cfg.hashCoeffs p then p else lookup s.cache j := by
  by_cases h : lookup s.cache (hash s.cfg.hashCoeffs p) = p
  · rw [encodeNew_of_hit h]
    split
    next hj => exact hj ▸ h
    next => rfl
  · rw [encodeNew_of_miss h]
    simp only [emit_cache, store_cache, lookup_cacheStore, eq_comm]

/-! ### A step of the encode loop -/

theorem engineStep_encode {c : Command} (hc : s.cmd = some c) (hs : s.stage = .encode) :
    engineStep s = if s.pixPos < s.n then encodeStep s else finishEncode c s := by
  rw [engineStep, hc, hs]

theorem encodeStep_of_read {p : Pixel} (hw : s.cfg.posWidth = none) (hr : Buffer.read s.pixIn s.pixPos = some p) :
    encodeStep s = .next (encodePixel p s) := by
  simp only [encodeStep, hr]
  exact checkOutLen_unbounded ((pixelFrame_encodePixel p s).cfg ▸ hw)

/-- With pixels still to come the encode loop processes one. -/
theorem step_of_pixel_to_encode {p : Pixel} (h : Running .encode s) (hw : s.cfg.posWidth = none) (hn : s.pixPos < s.n)
    (hr : Buffer.read s.pixIn s.pixPos = some p) : step s = .next (encodePixel p (afterTurn s)) := by
  obtain ⟨c, hc⟩ := Option.ne_none_iff_exists'.1 h.command
  rw [step_of_busy h.busy h.moves, engineStep_encode (s := afterTurn s) hc h.stage]
  exact (if_pos hn).trans (encodeStep_of_read (s := afterTurn s) hw hr)

/-- With no pixel to come the encode loop ends. -/
theorem step_of_pixels_encoded {c : Command} (h : Running .encode s) (hc : s.cmd = some c) (hn : s.n ≤ s.pixPos) :
    step s = finishEncode c (afterTurn s) := by
  rw [step_of_busy h.busy h.moves, engineStep_encode (s := afterTurn s) hc h.stage]
  exact if_neg (Nat.not_lt.2 hn)

end

/-! ### What a pixel appends -/

section
variable {s : State}

theorem appends_encodePixel_flushed (hd : Buffer.Dense s.outBuf) (h : s.run + 1 = 62 ∨ s.pixPos + 1 = s.n) :
    Appends (encode (.run (s.run + 1))) s (encodePixel s.prev s) := by
  have ha := appends_flushRun (s := { s with run := s.run + 1 }) hd
  rw [encodePixel_prev_flushed h]
  exact ⟨ha.out, ha.outBuf⟩

theorem appends_encodePixel_open (hd : Buffer.Dense s.outBuf) (h : ¬(s.run + 1 = 62 ∨ s.pixPos + 1 = s.n)) :
    Appends [] s (encodePixel s.prev s) := by
  have ha := appends_nil hd
  rw [encodePixel_prev_open h]
  exact ⟨ha.out, ha.outBuf⟩

theorem appends_encodePixel_of_ne (hd : Buffer.Dense s.outBuf) {p : Pixel} (h : p ≠ s.prev) :
    Appends (flushBytes s ++ encode (pixelChunk p s)) s (encodePixel p s) := by
  have hflush := appends_flushOpenRun hd
  have ha := hflush.trans (appends_encodeNew hflush.dense p)
  rw [pixelChunk_flushOpenRun] at ha
  rw [encodePixel_of_ne h]
  exact ⟨ha.out, ha.outBuf⟩

/-- Whatever the outcome, OUT and the encoder's `out` get the same bytes. -/
theorem encodePixel_appends (hd : Buffer.Dense s.outBuf) (p : Pixel) :
    ∃ bytes, Appends bytes s (encodePixel p s) := by
  by_cases hp : p = s.prev
  case neg => exact ⟨_, appends_encodePixel_of_ne hd hp⟩
  subst hp
  by_cases hf : s.run + 1 = 62 ∨ s.pixPos + 1 = s.n
  · exact ⟨_, appends_encodePixel_flushed hd hf⟩
  · exact ⟨_, appends_encodePixel_open hd hf⟩

/-- 44_encode R232: a run continuation writes neither `prev` nor the cache. -/
theorem encodePixel_prev_keeps (s : State) :
    (encodePixel s.prev s).prev = s.prev ∧ (encodePixel s.prev s).cache = s.cache := by
  by_cases h : s.run + 1 = 62 ∨ s.pixPos + 1 = s.n
  · rw [encodePixel_prev_flushed h]; exact ⟨rfl, rfl⟩
  · rw [encodePixel_prev_open h]; exact ⟨rfl, rfl⟩

end

/-- Settles O44: `encodePixel` extends the run, and flushes it under the rule's condition. -/
theorem equalPixelExtendsRun : Obligations.EqualPixelExtendsRun := by
  intro s hrun hw hd hn hr
  obtain ⟨hprev, hcache⟩ := encodePixel_prev_keeps (afterTurn s)
  refine ⟨_, step_of_pixel_to_encode hrun hw hn hr, pixelFrame_encodePixel _ _, rfl, hprev, hcache,
    fun hf => ⟨?flushed, ?_⟩, fun hf => ⟨?stillOpen, ?_⟩⟩
  case flushed => exact congrArg State.run (encodePixel_prev_flushed (s := afterTurn s) hf)
  case stillOpen => exact congrArg State.run (encodePixel_prev_open (s := afterTurn s) hf)
  · have ha := appends_encodePixel_flushed (s := afterTurn s) hd hf
    exact ⟨ha.out, ha.outBuf⟩
  · have ha := appends_encodePixel_open (s := afterTurn s) hd hf
    exact ⟨ha.out, ha.outBuf⟩

/-- Settles O45: the open run's chunk and then the pixel's own are appended, and hit and miss leave the same lookups. -/
theorem differingPixelEmitsItsChunk : Obligations.DifferingPixelEmitsItsChunk := by
  intro s p hrun hw hd hn hr hp
  have heq := encodePixel_of_ne (s := afterTurn s) hp
  have ha := appends_encodePixel_of_ne (s := afterTurn s) hd hp
  obtain ⟨hcfg, hcache, -⟩ := flushOpenRun_keeps (afterTurn s)
  refine ⟨_, step_of_pixel_to_encode hrun hw hn hr, pixelFrame_encodePixel _ _, rfl, ?prev, ?run,
    ⟨ha.out, ha.outBuf⟩, fun j => ?lookup⟩
  case prev => rw [heq, encodeNew_prev]
  case run => rw [heq, encodeNew_run, flushOpenRun_run]
  case lookup =>
    rw [heq, lookup_encodeNew, hcfg, hcache]
    rfl

end Sys2Proof.Machine

/-! The encode loop (44_encode R230, R243): its run over the pixels left, and the bounds of its output. -/

namespace Sys2Proof.Machine

section
variable {s t : State}

theorem runFor_add {k : Nat} (h : runFor k s = .next t) (l : Nat) : runFor (k + l) s = runFor l t := by
  induction k generalizing s with
  | zero => cases h; rw [Nat.zero_add]
  | succ k ih =>
    rw [runFor] at h
    split at h
    next u hu => rw [Nat.succ_add, runFor_succ_of_step hu, ih h]
    all_goals cases h

/-- A run of `k` steps and one more. -/
theorem runFor_succ_of_runFor {u : State} {k : Nat} (h : runFor k s = .next t) (hu : step t = .next u) :
    runFor (k + 1) s = .next u := by
  rw [runFor_add h, runFor_succ_of_step hu, runFor_zero]

end

/-- The state after the pixels `ps` are processed one by one (44_encode R230). -/
def encodePixels (ps : List Pixel) (s : State) : State := ps.foldl (fun t p => encodePixel p t) s

@[simp] theorem encodePixels_nil (s : State) : encodePixels [] s = s := rfl

@[simp] theorem encodePixels_cons (p : Pixel) (ps : List Pixel) (s : State) :
    encodePixels (p :: ps) s = encodePixels ps (encodePixel p s) := rfl

/-- What every pixel keeps, the pixels keep. -/
theorem encodePixels_keeps {motive : State → Prop} (hstep : ∀ p s, motive s → motive (encodePixel p s))
    (ps : List Pixel) {s : State} (h : motive s) : motive (encodePixels ps s) := by
  induction ps generalizing s with
  | nil => exact h
  | cons p ps ih => exact ih (hstep p s h)

theorem encodePixels_pixPos (ps : List Pixel) (s : State) : (encodePixels ps s).pixPos = s.pixPos + ps.length := by
  induction ps generalizing s with
  | nil => rfl
  | cons p ps ih => rw [encodePixels_cons, ih, encodePixel_pixPos, List.length_cons]; omega

theorem encodePixels_cfg (ps : List Pixel) (s : State) : (encodePixels ps s).cfg = s.cfg :=
  encodePixels_keeps (motive := fun t => t.cfg = s.cfg) (fun p t h => (pixelFrame_encodePixel p t).cfg.trans h) ps rfl

/-! ### The loop -/

/-- The encode loop of the command `c` on the pixels `x`, with unbounded counters and no host move planned. -/
structure EncodeLoop (c : Command) (x : List Pixel) (s : State) : Prop where
  busy : s.phase = .busy
  stage : s.stage = .encode
  command : s.cmd = some c
  turns : s.turns = []
  unbounded : s.cfg.posWidth = none
  pixels : s.pixIn = Buffer.ofList x
  count : s.n = x.length

section
variable {c : Command} {x : List Pixel} {s : State}

theorem EncodeLoop.running (h : EncodeLoop c x s) : Running .encode s :=
  ⟨h.busy, h.stage, by rw [h.command]; exact Option.some_ne_none c, .inl h.turns⟩

theorem EncodeLoop.encodePixel (h : EncodeLoop c x s) (p : Pixel) : EncodeLoop c x (encodePixel p s) := by
  have hf := pixelFrame_encodePixel p s
  exact ⟨hf.phase.trans h.busy, hf.stage.trans h.stage, hf.cmd.trans h.command, hf.turns.trans h.turns,
    hf.cfg ▸ h.unbounded, hf.pixIn.trans h.pixels, hf.n.trans h.count⟩

theorem EncodeLoop.encodePixels (h : EncodeLoop c x s) (ps : List Pixel) : EncodeLoop c x (encodePixels ps s) :=
  encodePixels_keeps (fun p _ h => h.encodePixel p) ps h

theorem EncodeLoop.step_pixel (h : EncodeLoop c x s) {p : Pixel} (hp : x[s.pixPos]? = some p) :
    step s = .next (Machine.encodePixel p s) := by
  have hn : s.pixPos < s.n := h.count ▸ (List.getElem?_eq_some_iff.1 hp).1
  have hr : Buffer.read s.pixIn s.pixPos = some p := by rw [h.pixels, Buffer.read_ofList, hp]
  rw [step_of_pixel_to_encode h.running h.unbounded hn hr, afterTurn_of_turns_nil h.turns]

/-- One step for each of the next pixels. -/
theorem EncodeLoop.runFor_pixels (h : EncodeLoop c x s) {ps rest : List Pixel} (hx : x.drop s.pixPos = ps ++ rest) :
    runFor ps.length s = .next (Machine.encodePixels ps s) := by
  induction ps generalizing s with
  | nil => rfl
  | cons p ps ih =>
    have hp : x[s.pixPos]? = some p := by rw [← List.head?_drop, hx]; rfl
    rw [List.length_cons, runFor_succ_of_step (h.step_pixel hp)]
    refine ih (h.encodePixel p) ?_
    rw [encodePixel_pixPos, ← List.drop_drop, hx]
    rfl

theorem EncodeLoop.step_end (h : EncodeLoop c x s) (hn : x.length ≤ s.pixPos) : step s = finishEncode c s := by
  rw [step_of_pixels_encoded h.running h.command (h.count ▸ hn), afterTurn_of_turns_nil h.turns]

theorem EncodeLoop.of_inv (hi : Inv s) (hb : s.phase = .busy) (hs : s.stage = .encode) (ht : s.turns = [])
    (hw : s.cfg.posWidth = none) : ∃ c, EncodeLoop c (Buffer.toList s.pixIn) s := by
  obtain ⟨c, hc⟩ := Option.ne_none_iff_exists'.1 (hi.has_command hb)
  have hn := (hi.encoding hb hs).count
  exact ⟨c, hb, hs, hc, ht, hw, hi.pixIn_dense.eq_ofList, hn.trans (List.length_map _).symm⟩

/-- With unbounded counters no end of an encode loop is refused. -/
theorem finishEncode_done (c : Command) (hw : s.cfg.posWidth = none) :
    ∃ t, finishEncode c s = .next t ∧ t.phase = .done ∧ t.err = .none := by
  cases c with
  | fileEnc _ => exact ⟨_, if_pos (fitsPosWidth_none hw _), rfl, rfl⟩
  | hdrEnc _ | hdrDec | encode | decode _ | fileDec => exact ⟨_, rfl, rfl, rfl⟩

end

/-- Settles O56: the loop runs one pixel a step, and its end is one more. -/
theorem encodeTakesOneStepPerPixel : Obligations.EncodeTakesOneStepPerPixel := by
  intro s hi hb hs ht hw
  obtain ⟨c, h⟩ := EncodeLoop.of_inv hi hb hs ht hw
  have hpixels : ∀ k, k ≤ s.n - s.pixPos → ∃ t, runFor k s = .next t ∧
      EncodeLoop c (Buffer.toList s.pixIn) t ∧ t.pixPos = s.pixPos + k := by
    intro k hk
    have hlen : (((Buffer.toList s.pixIn).drop s.pixPos).take k).length = k := by
      have hn := h.count
      simp only [List.length_take, List.length_drop]
      omega
    have hrun := h.runFor_pixels (List.take_append_drop k _).symm
    rw [hlen] at hrun
    exact ⟨_, hrun, h.encodePixels _, by rw [encodePixels_pixPos, hlen]⟩
  refine ⟨fun k hk => ?_, ?_⟩
  · obtain ⟨t, hrun, hloop, hpos⟩ := hpixels k hk
    exact ⟨t, hrun, hloop.busy, hpos⟩
  · obtain ⟨t, hrun, hloop, hpos⟩ := hpixels _ (Nat.le_refl _)
    obtain ⟨u, hend, hdone⟩ := finishEncode_done c hloop.unbounded
    have hn := h.count
    exact ⟨u, runFor_succ_of_runFor hrun ((hloop.step_end (by omega)).trans hend), hdone⟩

/-! ### The bounds of the output -/

/-- R243's bounds at a point of the loop: a RUN byte stands for at most 62 pixels, a pixel makes at most 5 bytes, and
the open run's pixels have made none yet. -/
structure EncodeBounds (s : State) : Prop where
  run_le : s.run ≤ 61
  run_end : s.pixPos = s.n → s.run = 0
  pixels_le : s.pixPos ≤ 62 * s.out.length + s.run
  bytes_le : s.out.length + s.run ≤ 5 * s.pixPos

theorem chunkKind_size_le (k : ChunkKind) : k.size ≤ 5 := by cases k <;> decide

/-- An open run makes one byte. -/
theorem flushBytes_length (s : State) : (flushBytes s).length = min s.run 1 := by
  obtain hrun | hrun := Nat.eq_zero_or_pos s.run
  · rw [flushBytes_of_zero hrun, hrun]; rfl
  · rw [flushBytes_of_pos hrun, Nat.min_eq_right hrun]; rfl

theorem encodePixel_bounds (p : Pixel) (s : State) (h : EncodeBounds s) : EncodeBounds (encodePixel p s) := by
  obtain ⟨hrun, -, hpixels, hbytes⟩ := h
  apply encodePixel_cases (motive := fun _ t => EncodeBounds t)
  case flushed =>
    intro _
    constructor <;> simp [encode_length, Instr.kind, ChunkKind.size] <;> omega
  case stillOpen =>
    intro hf
    constructor <;> simp <;> omega
  case differs =>
    intro _
    have hpos := chunkKind_size_pos (pixelChunk p s).kind
    have hle := chunkKind_size_le (pixelChunk p s).kind
    constructor <;> simp [encode_length, flushBytes_length] <;> omega

end Sys2Proof.Machine

/-! ENCODE as a command (44_encode R230): the host fills PIXIN and issues it, and the block runs to its end. -/

namespace Sys2Proof.Machine

section
variable {s : State}

/-- The host fills an input and issues a command (45 R277, 70_reset R343): the issue is from the filled state. -/
theorem runFor_fill_issue {fill : HostMove} {c : Command} {u : State}
    (hfill : hostMove fill { s with turns := [.host (.issue c)] } = .next u) (hu : u.turns = [.host (.issue c)])
    (hp : u.phase ≠ .busy) (k : Nat) :
    runFor (k + 2) { s with turns := [.host fill, .host (.issue c)] } =
      runFor k (issueCommand c { u with turns := [] }) := by
  have hstep : step { s with turns := [.host fill, .host (.issue c)] } = .next u := hfill
  have hissue : step u = .next (issueCommand c { u with turns := [] }) := by
    simp only [step, hu]
    exact if_neg hp
  rw [runFor_succ_of_step hstep, runFor_succ_of_step hissue]

/-- A command just issued with no host move planned: the next step is its first transition. -/
theorem step_issueCommand (ht : s.turns = []) (c : Command) :
    step (issueCommand c s) = startCommand c (issueCommand c s) := by
  have hissued : Issued c (issueCommand c s) := ⟨rfl, rfl, rfl, .inl ht⟩
  rw [step_of_issued hissued, afterTurn_of_turns_nil (s := issueCommand c s) ht]

/-- The start of an ENCODE within MAX_PIXELS, with unbounded counters. -/
theorem startCommand_encode {x : List Pixel} (hx : s.pixIn = Buffer.ofList x) (hw : s.cfg.posWidth = none)
    (hcap : overCapacity s.cfg x.length = false) :
    startCommand .encode s = .next (initEncode x.length (clearOut s)) := by
  have hcheck := checkOutLen_unbounded (s := initEncode x.length (clearOut s)) hw
  rw [startCommand, startEncodeCmd, hx, Buffer.size_ofList, hcap, if_neg Bool.false_ne_true, startEncode,
    fitsPosWidth_none (c := (clearOut s).cfg) hw, if_pos rfl, hcheck]

end

/-- The block at the start of the encode loop of ENCODE, its input filled and the command issued from `s`. -/
def encodeStarted (x : List Pixel) (s : State) : State :=
  initEncode x.length (clearOut (issueCommand .encode { s with turns := [], pixIn := Buffer.ofList x }))

/-- The block at the end of that loop. -/
def encoded (x : List Pixel) (s : State) : State := encodePixels x (encodeStarted x s)

/-- The block after ENCODE. -/
def encodeDone (x : List Pixel) (s : State) : State :=
  complete (some (encoded x s).out.length) none (encoded x s)

section
variable {s : State}

theorem encodeLoop_started (hw : s.cfg.posWidth = none) (x : List Pixel) :
    EncodeLoop .encode x (encodeStarted x s) :=
  ⟨rfl, rfl, rfl, rfl, hw, rfl, rfl⟩

@[simp] theorem encoded_cfg (x : List Pixel) (s : State) : (encoded x s).cfg = s.cfg := encodePixels_cfg x _

theorem encoded_pixPos (x : List Pixel) (s : State) : (encoded x s).pixPos = x.length :=
  (encodePixels_pixPos x _).trans (Nat.zero_add _)

/-- What a pixel appends to OUT it appends to the encoder's `out`: OUT stays `out` behind what stood before it. -/
theorem encodePixel_outBuf {before : List Byte} (p : Pixel) (s : State)
    (h : s.outBuf = Buffer.ofList (before ++ s.out)) :
    (encodePixel p s).outBuf = Buffer.ofList (before ++ (encodePixel p s).out) := by
  obtain ⟨bytes, ha⟩ := encodePixel_appends (h ▸ Buffer.dense_ofList _) p
  rw [ha.outBuf, ha.out, h, Buffer.toList_ofList, List.append_assoc]

theorem encoded_outBuf (x : List Pixel) (s : State) : (encoded x s).outBuf = Buffer.ofList (encoded x s).out :=
  encodePixels_keeps (motive := fun t => t.outBuf = Buffer.ofList ([] ++ t.out)) encodePixel_outBuf x rfl

theorem encodeStarted_bounds (x : List Pixel) (s : State) : EncodeBounds (encodeStarted x s) :=
  ⟨Nat.zero_le _, fun _ => rfl, Nat.zero_le _, Nat.zero_le _⟩

theorem encoded_bounds (x : List Pixel) (s : State) : EncodeBounds (encoded x s) :=
  encodePixels_keeps encodePixel_bounds x (encodeStarted_bounds x s)

theorem encoded_run (hw : s.cfg.posWidth = none) (x : List Pixel) : (encoded x s).run = 0 :=
  (encoded_bounds x s).run_end ((encoded_pixPos x s).trans ((encodeLoop_started hw x).encodePixels x).count.symm)

/-- From the host's two moves to the end of the command: two moves, the start, a step for each pixel, the end. -/
theorem runFor_encode (hp : s.phase ≠ .busy) (hw : s.cfg.posWidth = none) {x : List Pixel}
    (hcap : overCapacity s.cfg x.length = false) :
    runFor (x.length + 1 + 1 + 2) { s with turns := [.host (.writePixIn x), .host (.issue .encode)] } =
      .next (encodeDone x s) := by
  have hstart : step (issueCommand .encode { s with turns := [], pixIn := Buffer.ofList x }) =
      .next (encodeStarted x s) := by
    rw [step_issueCommand rfl]
    exact startCommand_encode rfl hw hcap
  have hloop := encodeLoop_started hw x
  have hpixels := hloop.runFor_pixels (ps := x) (rest := []) (List.append_nil x).symm
  have hend := (hloop.encodePixels x).step_end (encoded_pixPos x s).ge
  have hout : Buffer.size (encoded x s).outBuf = (encoded x s).out.length := by
    rw [encoded_outBuf, Buffer.size_ofList]
  have hmoves := runFor_fill_issue (s := s) (fill := .writePixIn x) (c := .encode) (if_neg hp) rfl hp
  rw [hmoves, runFor_succ_of_step hstart, encodeDone, ← hout]
  exact runFor_succ_of_runFor hpixels hend

theorem readOut_encodeDone (x : List Pixel) (s : State) : readOut (encodeDone x s) = .ok (encoded x s).out := by
  simp [readOut, encodeDone, encoded_outBuf]

end

/-- Settles O58: the loop keeps `EncodeBounds`, and at its end no run is open. -/
theorem encodeLengthBounds : Obligations.EncodeLengthBounds := by
  intro s x hp hw hcap
  obtain ⟨-, -, hpixels, hbytes⟩ := encoded_bounds x s
  rw [encoded_pixPos, encoded_run hw x] at hpixels hbytes
  exact ⟨_, _, _, runFor_encode hp hw hcap, rfl, readOut_encodeDone x s, rfl, by omega, by omega⟩

end Sys2Proof.Machine

/-! The decoder on a payload that begins with a packed chunk (43_decode R182): its step is that chunk's meaning. -/

namespace Sys2Proof.Machine

theorem Buffer.readN_cons {α : Type} {m : Buffer α} {a len : Nat} {x : α} {xs : List α}
    (h : Buffer.readN m a (len + 1) = some (x :: xs)) : Buffer.readN m (a + 1) len = some xs := by
  simp only [Buffer.readN] at h
  split at h
  next hxs => cases h; exact hxs
  next => cases h

/-- `MemRead` of a string is `MemRead` of its parts, the second behind the first (00_scope R9). -/
theorem Buffer.readN_append {α : Type} {m : Buffer α} {a : Nat} {xs ys : List α}
    (h : Buffer.readN m a (xs ++ ys).length = some (xs ++ ys)) :
    Buffer.readN m a xs.length = some xs ∧ Buffer.readN m (a + xs.length) ys.length = some ys := by
  induction xs generalizing a with
  | nil => exact ⟨rfl, h⟩
  | cons x xs ih =>
    obtain ⟨hxs, hys⟩ := ih (Buffer.readN_cons h)
    have hx := Buffer.readN_head h
    refine ⟨by simp only [List.length_cons, Buffer.readN, hx, hxs], ?_⟩
    rwa [List.length_cons, Nat.add_comm xs.length, ← Nat.add_assoc]

section
variable {s : State} {i : Instr} {before after : List Byte}

/-- The chunk at `inPos` is fetched whole. -/
theorem fetchChunk_of_payload (hi : i.WellFormed = true)
    (hr : Buffer.readN s.inBuf s.payBase s.payLen = some (before ++ (encode i ++ after)))
    (hp : s.inPos = before.length) : fetchChunk s = some (encode i) := by
  obtain ⟨b0, bs, he, hkind, hsize⟩ := encodeStart_statement i hi
  have hlen : chunkLen b0 = (encode i).length := by rw [chunkLen_eq_size, hkind, encode_length]
  have hpay := Buffer.readN_length hr
  rw [← hpay] at hr
  obtain ⟨hchunk, -⟩ := Buffer.readN_append (Buffer.readN_append hr).2
  have htag : Buffer.read s.inBuf (s.payBase + before.length) = some b0 := by
    rw [he] at hchunk
    exact Buffer.readN_head hchunk
  have hpos := chunkLen_pos b0
  simp only [List.length_append] at hpay
  rw [fetchChunk, if_neg (by omega), hp, htag]
  simp only [hlen, hchunk, ite_eq_right_iff]
  omega

/-- With pixels still to come, the decode loop runs the chunk its payload holds at `inPos`. -/
theorem DecodeLoop.step_chunk (h : DecodeLoop s) (hn : s.outPos < s.n) (hi : i.WellFormed = true)
    (hr : Buffer.readN s.inBuf s.payBase s.payLen = some (before ++ (encode i ++ after)))
    (hp : s.inPos = before.length) : step s = exec i (refresh s) := by
  rw [step_of_pixels_left h.running hn, afterTurn_of_turns_nil h.turns,
    decodeStep_of_fetch (fetchChunk_of_payload hi hr hp) (decode_encode hi)]

theorem exec_run_of_fits {c : Nat} (h : s.outPos + c ≤ s.n) : exec (.run c) s = .next (advance 1 (putRun c s)) :=
  if_neg (Nat.not_lt.2 h)

/-- An INDEX finds the pixel by the lock-step, and a chunk chosen for the pixel puts it (44_encode R235 to R240). -/
theorem exec_pixelChunk {e : State} {p : Pixel} (hprev : s.prev = e.prev)
    (hit : lookup e.cache (hash e.cfg.hashCoeffs p) = p → lookup s.cache (hash e.cfg.hashCoeffs p) = p) :
    exec (pixelChunk p e) s = .next (advance (pixelChunk p e).kind.size (put p s)) := by
  by_cases h : lookup e.cache (hash e.cfg.hashCoeffs p) = p
  · rw [pixelChunk, if_pos h, exec_index, hit h]
    rfl
  · rw [pixelChunk, if_neg h, ← hprev, exec_chooseLiteral]

theorem pixelChunk_wellFormed (p : Pixel) (s : State) : (pixelChunk p s).WellFormed = true := by
  unfold pixelChunk
  split
  · rfl
  · exact chooseLiteral_wellFormed s.prev p

end

end Sys2Proof.Machine

/-! The lock-step of encoder and decoder (41_pixel_cache R138): the decoder, reading what the encoder has emitted so
far, has written every pixel but those of the encoder's open run. -/

namespace Sys2Proof.Machine

/-- 41_pixel_cache R138, as far as an INDEX can tell: a pixel the encoder finds in its cache stands in the decoder's
refreshed cache at the same slot. -/
def HitsAgree (k : HashCoeffs) (enc dec : Vector Pixel 64) : Prop :=
  ∀ q, lookup enc (hash k q) = q → lookup dec (hash k q) = q

/-- Both caches are zero but for the seed in the decoder's, which hides no hit on (0,0,0,0) by the seed condition. -/
theorem hitsAgree_start {c : Config} (h : SeedOk c) : HitsAgree c.hashCoeffs (Vector.replicate 64 Pixel.zero)
    (cacheStore (Vector.replicate 64 Pixel.zero) (hash c.hashCoeffs c.seedPixel) c.seedPixel) := by
  intro q hq
  rw [lookup_zeroed] at hq
  subst hq
  rw [lookup_cacheStore, hash_zero, lookup_zeroed]
  obtain hseed | hseed := h
  · rw [hseed, ite_self]
  · exact if_neg hseed

/-- Both caches come to hold `p` at its slot. -/
theorem HitsAgree.store {k : HashCoeffs} {enc enc' dec : Vector Pixel 64} {p : Pixel} (h : HitsAgree k enc dec)
    (henc : ∀ j, lookup enc' j = if j = hash k p then p else lookup enc j) :
    HitsAgree k enc' (cacheStore dec (hash k p) p) := by
  intro q hq
  rw [henc] at hq
  rw [lookup_cacheStore]
  by_cases hj : hash k q = hash k p
  · rw [if_pos hj] at hq
    rw [if_pos hj.symm, hq]
  · rw [if_neg hj] at hq
    rw [if_neg (Ne.symm hj), h q hq]

/-- The decoder's cache after the refresh of its next step (43_decode R183), its `prev` being the encoder's. -/
def refreshedFor (e : State) (cache : Vector Pixel 64) : Vector Pixel 64 :=
  cacheStore cache (hash e.cfg.hashCoeffs e.prev) e.prev

/-- The decoder `d` after the bytes that the encoder `e` has emitted: the same `prev`, the pixels `ws` written. -/
def caughtUp (d e : State) (cache : Vector Pixel 64) (ws : List Pixel) : State :=
  { d with
    prev := e.prev
    cache := cache
    inPos := e.out.length
    outPos := ws.length
    pixOut := Buffer.ofList ws }

/-- The decoder that started as `d` stands at `t`, where the encoder stands at `e` with the pixels `done` processed: the
decoder lacks only the pixels of the open run. -/
inductive Follows (d : State) (done : List Pixel) (e t : State) : Prop where
  | intro (cache : Vector Pixel 64) (ws : List Pixel) (state : t = caughtUp d e cache ws) (cfg : d.cfg = e.cfg)
      (pixels : done = ws ++ List.replicate e.run e.prev)
      (hits : HitsAgree e.cfg.hashCoeffs e.cache (refreshedFor e cache))

/-- The decode loop `d` starts on the payload `stream`. -/
structure DecodesStream (stream : List Byte) (d : State) : Prop where
  loop : DecodeLoop d
  payload : Buffer.readN d.inBuf d.payBase d.payLen = some stream

section
variable {d e t : State} {done : List Pixel} {stream : List Byte}

/-- A decoder that has caught up runs the chunk emitted next, on the refreshed cache. -/
theorem DecodesStream.step_caughtUp (h : DecodesStream stream d) (hcfg : d.cfg = e.cfg) {cache : Vector Pixel 64}
    {ws : List Pixel} {i : Instr} (hi : i.WellFormed = true) (hs : e.out ++ encode i <+: stream)
    (hn : ws.length < d.n) : step (caughtUp d e cache ws) = exec i (caughtUp d e (refreshedFor e cache) ws) := by
  obtain ⟨after, hs⟩ := hs
  rw [List.append_assoc] at hs
  have hl := h.loop
  have hloop : DecodeLoop (caughtUp d e cache ws) :=
    ⟨hl.busy, hl.stage, hl.command, hl.turns, hl.in_dense, hl.payload_in⟩
  rw [hloop.step_chunk hn hi (before := e.out) (after := after) (hs ▸ h.payload) rfl, refreshedFor, ← hcfg]
  rfl

/-- The encoder's own position does not matter to the decoder. -/
theorem Follows.setPixPos (h : Follows d done e t) (k : Nat) : Follows d done { e with pixPos := k } t := by
  obtain ⟨cache, ws, hstate, hcfg, hpixels, hits⟩ := h
  exact ⟨cache, ws, hstate, hcfg, hpixels, hits⟩

/-- A run continuation emits nothing, and the decoder waits. -/
theorem Follows.extendRun (h : Follows d done e t) :
    Follows d (done ++ [e.prev]) { e with run := e.run + 1 } t := by
  obtain ⟨cache, ws, rfl, hcfg, rfl, hits⟩ := h
  refine ⟨cache, ws, rfl, hcfg, ?_, hits⟩
  rw [List.replicate_succ', List.append_assoc]

/-- A flushed RUN makes the decoder write the pixels of the run. -/
theorem Follows.flushRun (h : Follows d done e t) (hd : DecodesStream stream d) (hpos : 0 < e.run) (hle : e.run ≤ 62)
    (hs : (flushRun e).out <+: stream) (hn : done.length ≤ d.n) :
    ∃ t', step t = .next t' ∧ Follows d done (flushRun e) t' := by
  obtain ⟨cache, ws, rfl, hcfg, rfl, hits⟩ := h
  rw [List.length_append, List.length_replicate] at hn
  have hi : (Instr.run e.run).WellFormed = true := decide_eq_true ⟨hpos, hle⟩
  have hstep := hd.step_caughtUp hcfg (cache := cache) hi hs (show ws.length < d.n by omega)
  refine ⟨_, hstep.trans (exec_run_of_fits hn), refreshedFor e cache, ws ++ List.replicate e.run e.prev, ?state, hcfg,
    (List.append_nil _).symm, ?hits⟩
  case state =>
    simp [caughtUp, advance, putRun, Machine.flushRun, Buffer.writeN_ofList_end, encode_length, Instr.kind,
      ChunkKind.size]
  case hits => exact (congrArg (HitsAgree _ _) (cacheStore_twice cache _ _)).mpr hits

/-- A differing pixel's own chunk makes the decoder write that pixel. -/
theorem Follows.encodeNew (h : Follows d done e t) (hd : DecodesStream stream d) (hrun : e.run = 0) (p : Pixel)
    (hs : (encodeNew p e).out <+: stream) (hn : done.length < d.n) :
    ∃ t', step t = .next t' ∧ Follows d (done ++ [p]) (encodeNew p e) t' := by
  obtain ⟨cache, ws, rfl, hcfg, rfl, hits⟩ := h
  simp only [hrun, List.replicate_zero, List.append_nil] at hn ⊢
  rw [encodeNew_out] at hs
  have hstep := hd.step_caughtUp hcfg (cache := cache) (pixelChunk_wellFormed p e) hs hn
  refine ⟨_, hstep.trans (exec_pixelChunk rfl (hits p)), refreshedFor e cache, ws ++ [p], ?state,
    hcfg.trans (encodeNew_cfg p e).symm, ?pixels, ?hits⟩
  case state => simp [caughtUp, advance, put, Buffer.write_ofList_end, encode_length]
  case pixels => rw [encodeNew_run, hrun, List.replicate_zero, List.append_nil]
  case hits =>
    rw [refreshedFor, encodeNew_cfg, encodeNew_prev]
    exact hits.store (lookup_encodeNew p e)

/-- Before a differing pixel the decoder reads the open run's chunk, if there is one. -/
theorem Follows.flushOpenRun (h : Follows d done e t) (hd : DecodesStream stream d) (hle : e.run ≤ 62)
    (hs : (flushOpenRun e).out <+: stream) (hn : done.length ≤ d.n) :
    ∃ k t', runFor k t = .next t' ∧ Follows d done (flushOpenRun e) t' := by
  obtain hrun | hrun := Nat.eq_zero_or_pos e.run
  · rw [flushOpenRun_of_zero hrun]
    exact ⟨0, t, rfl, h⟩
  · rw [flushOpenRun_of_pos hrun] at hs ⊢
    obtain ⟨t', hstep, h'⟩ := h.flushRun hd hrun hle hs hn
    exact ⟨1, t', runFor_succ_of_step hstep 0, h'⟩

/-- One pixel of the encoder: the decoder reads what it emits, in at most two steps. -/
theorem Follows.encodePixel (h : Follows d done e t) (hd : DecodesStream stream d) (hle : e.run ≤ 61) {p : Pixel}
    (hs : (encodePixel p e).out <+: stream) (hn : done.length < d.n) :
    ∃ k t', runFor k t = .next t' ∧ Follows d (done ++ [p]) (encodePixel p e) t' := by
  revert hs
  apply encodePixel_cases (motive := fun p e' => e'.out <+: stream →
    ∃ k t', runFor k t = .next t' ∧ Follows d (done ++ [p]) e' t')
  case flushed =>
    intro _ hs
    obtain ⟨t', hstep, h'⟩ := h.extendRun.flushRun hd (Nat.succ_pos _) (Nat.succ_le_succ hle) hs (by simpa using hn)
    exact ⟨1, t', runFor_succ_of_step hstep 0, h'.setPixPos _⟩
  case stillOpen =>
    exact fun _ _ => ⟨0, t, rfl, h.extendRun.setPixPos _⟩
  case differs =>
    intro _ hs
    have hflushed : (Machine.flushOpenRun e).out <+: stream :=
      (List.prefix_append _ _).trans (encodeNew_out p (Machine.flushOpenRun e) ▸ hs)
    obtain ⟨k, u, hrun, hu⟩ := h.flushOpenRun hd (Nat.le_succ_of_le hle) hflushed hn.le
    obtain ⟨t', hstep, h'⟩ := hu.encodeNew hd (flushOpenRun_run e) p hs hn
    exact ⟨k + 1, t', runFor_succ_of_runFor hrun hstep, h'.setPixPos _⟩

theorem out_prefix_encodePixel (p : Pixel) (s : State) : s.out <+: (Machine.encodePixel p s).out := by
  apply encodePixel_cases (motive := fun _ t => s.out <+: t.out)
  case flushed => exact fun _ => List.prefix_append _ _
  case stillOpen => exact fun _ => List.prefix_rfl
  case differs =>
    intro _
    rw [encodeNew_out, flushOpenRun_out, List.append_assoc]
    exact List.prefix_append _ _

theorem out_prefix_encodePixels (ps : List Pixel) (s : State) : s.out <+: (encodePixels ps s).out :=
  encodePixels_keeps (motive := fun t => s.out <+: t.out) (fun p t h => h.trans (out_prefix_encodePixel p t)) ps
    List.prefix_rfl

/-- The lock-step over the pixels left to encode. -/
theorem Follows.encodePixels {ps : List Pixel} (h : Follows d done e t) (hd : DecodesStream stream d)
    (hb : EncodeBounds e) (hs : (encodePixels ps e).out <+: stream) (hn : (done ++ ps).length ≤ d.n) :
    ∃ k t', runFor k t = .next t' ∧ Follows d (done ++ ps) (encodePixels ps e) t' := by
  induction ps generalizing done e t with
  | nil => exact ⟨0, t, rfl, (List.append_nil done).symm ▸ h⟩
  | cons p ps ih =>
    have hpixel : done.length < d.n := by
      simp only [List.length_append, List.length_cons] at hn
      omega
    obtain ⟨k, u, hrun, hu⟩ := h.encodePixel hd hb.run_le ((out_prefix_encodePixels ps _).trans hs) hpixel
    obtain ⟨l, t', hrun', h'⟩ := ih hu (encodePixel_bounds p e hb) hs (by simpa using hn)
    rw [List.append_assoc] at h'
    exact ⟨k + l, t', (runFor_add hrun l).trans hrun', h'⟩

/-- With no run open the decoder has written every pixel that was encoded. -/
theorem Follows.caughtUp_of_no_run (h : Follows d done e t) (hrun : e.run = 0) :
    ∃ cache, t = caughtUp d e cache done := by
  obtain ⟨cache, ws, rfl, -, rfl, -⟩ := h
  exact ⟨cache, by rw [hrun, List.replicate_zero, List.append_nil]⟩

end

/-- The lock-step at the start of both loops: nothing is emitted and nothing written. -/
theorem follows_start {d e : State} (hcfg : d.cfg = e.cfg) (hseed : SeedOk e.cfg) (base len count count' : Nat) :
    Follows (initDecode base len count d) [] (initEncode count' e) (initDecode base len count d) := by
  refine ⟨Vector.replicate 64 Pixel.zero, [], ?_, hcfg, rfl, hitsAgree_start hseed⟩
  simp only [initDecode, initEncode, caughtUp, hcfg]
  rfl

end Sys2Proof.Machine

/-! DECODE of an encoder's output (44_encode R244): the command, its lock-step with the encoder, and its end. -/

namespace Sys2Proof.Machine

/-- The block at the start of the decode loop of DECODE, its input filled and the command issued from `s`. -/
def decodeStarted (stream : List Byte) (count : Nat) (s : State) : State :=
  initDecode 0 stream.length count (issueCommand (.decode count) { s with turns := [], inBuf := Buffer.ofList stream })

section
variable {s t : State} {stream : List Byte} {count : Nat}

/-- The start of a DECODE within MAX_PIXELS, with unbounded counters. -/
theorem startCommand_decode (hin : s.inBuf = Buffer.ofList stream) (hw : s.cfg.posWidth = none)
    (hcap : overCapacity s.cfg count = false) :
    startCommand (.decode count) s = .next (initDecode 0 stream.length count s) := by
  rw [startCommand, startDecodeCmd, hcap, if_neg Bool.false_ne_true, startDecode, fitsPosWidth_none hw,
    fitsPosWidth_none hw, hin, Buffer.size_ofList]
  rfl

/-- From the host's two moves to the start of the decode loop. -/
theorem runFor_decodeStarted (hp : s.phase ≠ .busy) (hw : s.cfg.posWidth = none)
    (hcap : overCapacity s.cfg count = false) :
    runFor 3 { s with turns := [.host (.writeIn stream), .host (.issue (.decode count))] } =
      .next (decodeStarted stream count s) := by
  have hstart : step (issueCommand (.decode count) { s with turns := [], inBuf := Buffer.ofList stream }) =
      .next (decodeStarted stream count s) := by
    rw [step_issueCommand rfl]
    exact startCommand_decode rfl hw hcap
  have hmoves := runFor_fill_issue (s := s) (fill := .writeIn stream) (c := .decode count) (if_neg hp) rfl hp
  rw [hmoves, runFor_succ_of_step hstart, runFor_zero]

theorem follows_started (hcfg : t.cfg = s.cfg) (hseed : SeedOk s.cfg) (stream : List Byte) (count : Nat)
    (x : List Pixel) :
    Follows (decodeStarted stream count t) [] (encodeStarted x s) (decodeStarted stream count t) := by
  refine follows_start ?_ ?_ _ _ _ _
  exacts [hcfg, hseed]

theorem decodesStream_started (stream : List Byte) (count : Nat) (s : State) :
    DecodesStream stream (decodeStarted stream count s) where
  loop := ⟨rfl, rfl, Option.some_ne_none _, rfl, Buffer.dense_ofList stream,
    (Nat.zero_add _).trans_le (Buffer.size_ofList stream).ge⟩
  payload := Buffer.readN_ofList_all stream

/-- All pixels written and all bytes read, the next step ends DECODE with these pixels as its result. -/
theorem step_caughtUp_end {e : State} {x : List Pixel} (hs : e.out = stream) (cache : Vector Pixel 64) :
    ∃ u, step (caughtUp (decodeStarted stream x.length s) e cache x) = .next u ∧
      u.phase = .done ∧ readPixOut u = .ok x := by
  have hrun : Running .decode (caughtUp (decodeStarted stream x.length s) e cache x) :=
    ⟨rfl, rfl, Option.some_ne_none _, .inl rfl⟩
  refine ⟨_, (step_of_pixels_done hrun rfl (Nat.le_refl _)).trans (finishDecode_decode (congrArg _ hs)), rfl, ?_⟩
  simp [readPixOut, resultPixels, caughtUp, decodeStarted, initDecode, issueCommand, afterTurn]

end

/-- DECODE, issued from any block with the same parameters, gives back the pixels that ENCODE was given. -/
theorem runFor_decode_encoded {s t : State} {x : List Pixel} (hp : t.phase ≠ .busy) (hcfg : t.cfg = s.cfg)
    (hw : s.cfg.posWidth = none) (hseed : SeedOk s.cfg) (hcap : overCapacity s.cfg x.length = false) :
    ∃ k u, runFor k { t with
        turns := [.host (.writeIn (encoded x s).out), .host (.issue (.decode x.length))] } = .next u ∧
      u.phase = .done ∧ readPixOut u = .ok x := by
  have hstart := runFor_decodeStarted (stream := (encoded x s).out) hp (hcfg ▸ hw) (hcfg ▸ hcap)
  have hfollows := follows_started hcfg hseed (encoded x s).out x.length x
  obtain ⟨k, v, hrun, hv⟩ := hfollows.encodePixels (decodesStream_started _ _ _) (encodeStarted_bounds x s)
    List.prefix_rfl (Nat.le_refl _)
  obtain ⟨cache, rfl⟩ := hv.caughtUp_of_no_run (encoded_run hw x)
  obtain ⟨u, hend, hdone, hread⟩ := step_caughtUp_end (s := t) (e := encoded x s) (x := x) rfl cache
  exact ⟨3 + (k + 1), u, (runFor_add hstart _).trans (runFor_succ_of_runFor hrun hend), hdone, hread⟩

/-- Settles O59: ENCODE ends with its stream readable, and DECODE runs in lock-step with it. -/
theorem payloadRoundTrip : Obligations.PayloadRoundTrip := by
  intro s x hp hw hseed hcap
  have hdone : (encodeDone x s).phase ≠ .busy := by rw [encodeDone, complete_phase]; decide
  exact ⟨_, _, _, runFor_encode hp hw hcap, rfl, readOut_encodeDone x s,
    runFor_decode_encoded hdone (encoded_cfg x s) hw hseed hcap⟩

end Sys2Proof.Machine

/-! FILE_ENC (45_file_and_commands R271): the command up to its end, and the file it leaves in OUT. -/

namespace Sys2Proof.Machine

section
variable {c : Command} {x : List Pixel} {s t : State}

/-- An encode loop from its first pixel ends with no run open (10_state R29). -/
theorem EncodeLoop.run_eq_zero (h : EncodeLoop c x s) (hpos : s.pixPos = 0) (hb : EncodeBounds s) :
    (Machine.encodePixels x s).run = 0 := by
  refine (encodePixels_keeps encodePixel_bounds x hb).run_end ?_
  rw [encodePixels_pixPos, hpos, Nat.zero_add, (h.encodePixels x).count]

/-- An encode loop from its first pixel: a step for each pixel, and the end of its command. -/
theorem EncodeLoop.runFor_end (h : EncodeLoop c x s) (hpos : s.pixPos = 0)
    (ht : finishEncode c (Machine.encodePixels x s) = .next t) : runFor (x.length + 1) s = .next t := by
  have hpixels := h.runFor_pixels (ps := x) (rest := []) (by rw [hpos, List.append_nil]; rfl)
  have hend := (h.encodePixels x).step_end (by rw [encodePixels_pixPos]; exact Nat.le_add_left _ _)
  exact runFor_succ_of_runFor hpixels (hend.trans ht)

theorem encodeBounds_initEncode (count : Nat) (s : State) : EncodeBounds (initEncode count s) :=
  ⟨Nat.zero_le _, fun _ => rfl, Nat.zero_le _, Nat.zero_le _⟩

/-- The start of a FILE_ENC of a legal header and as many pixels as it says, within MAX_PIXELS, with unbounded
counters. -/
theorem startCommand_fileEnc {h : Header} {hb : List Byte} (hx : s.pixIn = Buffer.ofList x)
    (hn : x.length = pixelCount h) (he : headerEncode h = .ok hb) (hw : s.cfg.posWidth = none)
    (hcap : overCapacity s.cfg x.length = false) :
    startCommand (.fileEnc h) s = .next (initEncode x.length (writeOut hb (clearOut (setLatch h s)))) := by
  have hshape : ¬Buffer.size s.pixIn ≠ x.length := by rw [hx, Buffer.size_ofList]; exact not_not.2 rfl
  have hfits := fitsPosWidth_none (c := (writeOut hb (clearOut (setLatch h s))).cfg) hw x.length
  have hcheck := checkOutLen_unbounded (s := initEncode x.length (writeOut hb (clearOut (setLatch h s)))) hw
  simp only [startCommand, startFileEnc, ← hn, if_neg hshape, he, hcap, startEncode]
  rw [if_neg Bool.false_ne_true, if_pos hfits, hcheck]

/-- OUT read as the result of a command whose last act was to append `more` to a string. -/
theorem readOut_complete_writeOut {bytes : List Byte} (ho : s.outBuf = Buffer.ofList bytes) (more : List Byte) :
    readOut (complete (some (Buffer.size s.outBuf + more.length)) none (writeOut more s)) = .ok (bytes ++ more) := by
  have hread := Buffer.readN_ofList_all (bytes ++ more)
  rw [List.length_append] at hread
  simp [readOut, ho, Buffer.writeN_ofList_end, hread]

end

/-- The block at the start of the encode loop of FILE_ENC, whose header has the bytes `hb`, its input filled and the
command issued from `s`. -/
def fileEncodeStarted (h : Header) (hb : List Byte) (x : List Pixel) (s : State) : State :=
  initEncode x.length (writeOut hb (clearOut (setLatch h
    (issueCommand (.fileEnc h) { s with turns := [], pixIn := Buffer.ofList x }))))

/-- The block at the end of that loop. -/
def fileEncoded (h : Header) (hb : List Byte) (x : List Pixel) (s : State) : State :=
  encodePixels x (fileEncodeStarted h hb x s)

/-- The block after FILE_ENC. -/
def fileEncodeDone (h : Header) (hb : List Byte) (x : List Pixel) (s : State) : State :=
  complete (some (Buffer.size (fileEncoded h hb x s).outBuf + s.cfg.markerLen)) none
    (writeOut s.cfg.endMarker (fileEncoded h hb x s))

/-- A file (45 R271): the header's bytes, the chunks, END_MARKER. -/
def fileBytes (c : Config) (hb stream : List Byte) : List Byte := hb ++ stream ++ c.endMarker

section
variable {h : Header} {hb : List Byte} {x : List Pixel} {s : State}

theorem encodeLoop_fileStarted (hw : s.cfg.posWidth = none) (h : Header) (hb : List Byte) (x : List Pixel) :
    EncodeLoop (.fileEnc h) x (fileEncodeStarted h hb x s) :=
  ⟨rfl, rfl, rfl, rfl, hw, rfl, rfl⟩

theorem fileEncoded_cfg (h : Header) (hb : List Byte) (x : List Pixel) (s : State) :
    (fileEncoded h hb x s).cfg = s.cfg := encodePixels_cfg x _

theorem fileEncoded_run (hw : s.cfg.posWidth = none) (h : Header) (hb : List Byte) (x : List Pixel) :
    (fileEncoded h hb x s).run = 0 :=
  (encodeLoop_fileStarted hw h hb x).run_eq_zero rfl (encodeBounds_initEncode _ _)

/-- The loop leaves its chunks behind the header. -/
theorem fileEncoded_outBuf (h : Header) (hb : List Byte) (x : List Pixel) (s : State) :
    (fileEncoded h hb x s).outBuf = Buffer.ofList (hb ++ (fileEncoded h hb x s).out) := by
  refine encodePixels_keeps (motive := fun t => t.outBuf = Buffer.ofList (hb ++ t.out)) encodePixel_outBuf x ?_
  exact (Buffer.writeN_ofList_end [] hb).trans (congrArg Buffer.ofList (List.append_nil hb).symm)

/-- From the host's two moves to the end of the command: two moves, the start, a step for each pixel, the end. -/
theorem runFor_fileEnc (hp : s.phase ≠ .busy) (hw : s.cfg.posWidth = none) (he : headerEncode h = .ok hb)
    (hn : x.length = pixelCount h) (hcap : overCapacity s.cfg x.length = false) :
    runFor (x.length + 1 + 1 + 2) { s with turns := [.host (.writePixIn x), .host (.issue (.fileEnc h))] } =
      .next (fileEncodeDone h hb x s) := by
  have hstart : step (issueCommand (.fileEnc h) { s with turns := [], pixIn := Buffer.ofList x }) =
      .next (fileEncodeStarted h hb x s) := by
    rw [step_issueCommand rfl]
    exact startCommand_fileEnc rfl hn he hw hcap
  have hfinish : finishEncode (.fileEnc h) (fileEncoded h hb x s) = .next (fileEncodeDone h hb x s) := by
    rw [fileEncodeDone, ← fileEncoded_cfg h hb x s]
    exact if_pos (fitsPosWidth_none (by rw [fileEncoded_cfg, hw]) _)
  have hmoves := runFor_fill_issue (s := s) (fill := .writePixIn x) (c := .fileEnc h) (if_neg hp) rfl hp
  rw [hmoves, runFor_succ_of_step hstart]
  exact (encodeLoop_fileStarted hw h hb x).runFor_end rfl hfinish

theorem readOut_fileEncodeDone (h : Header) (hb : List Byte) (x : List Pixel) (s : State) :
    readOut (fileEncodeDone h hb x s) = .ok (fileBytes s.cfg hb (fileEncoded h hb x s).out) :=
  readOut_complete_writeOut (fileEncoded_outBuf h hb x s) s.cfg.endMarker

end

end Sys2Proof.Machine

/-! FILE_DEC of a file that FILE_ENC made (45_file_and_commands R272, R275): the command, its lock-step with the
encoder, and its end. -/

namespace Sys2Proof.Machine

section
variable {s : State} {h : Header} {hb stream : List Byte}

/-- IN holds the three parts of a file one behind the other. -/
theorem readN_fileBytes (c : Config) (hb stream : List Byte) :
    Buffer.readN (Buffer.ofList (fileBytes c hb stream)) 0 hb.length = some hb ∧
    Buffer.readN (Buffer.ofList (fileBytes c hb stream)) hb.length stream.length = some stream ∧
    Buffer.readN (Buffer.ofList (fileBytes c hb stream)) (hb.length + stream.length) c.markerLen =
      some c.endMarker := by
  obtain ⟨hbody, hmarker⟩ := Buffer.readN_append (Buffer.readN_ofList_all (fileBytes c hb stream))
  obtain ⟨hheader, hstream⟩ := Buffer.readN_append hbody
  rw [Nat.zero_add] at hstream
  rw [Nat.zero_add, List.length_append] at hmarker
  exact ⟨hheader, hstream, hmarker⟩

theorem size_fileBytes (c : Config) (hb stream : List Byte) :
    Buffer.size (Buffer.ofList (fileBytes c hb stream)) = hb.length + stream.length + c.markerLen := by
  rw [Buffer.size_ofList, fileBytes, List.length_append, List.length_append, Config.markerLen]

theorem readIn_of_readN {a len : Nat} {bytes : List Byte} (hr : Buffer.readN s.inBuf a len = some bytes)
    (k : List Byte → Result) : readIn a len s k = k bytes := by
  rw [readIn, hr]

/-- After the header the checks of FILE_DEC pass on a file under every END_MARKER_CHECK: the marker is END_MARKER. -/
theorem startFileDecBody_fileBytes (hin : s.inBuf = Buffer.ofList (fileBytes s.cfg hb stream))
    (hlen : hb.length = headerLen) (hw : s.cfg.posWidth = none) (hcap : overCapacity s.cfg (pixelCount h) = false) :
    startFileDecBody h s = .next (initDecode headerLen stream.length (pixelCount h) (setLatch h s)) := by
  obtain ⟨-, -, hmarker⟩ := readN_fileBytes s.cfg hb stream
  have hsize : Buffer.size s.inBuf = headerLen + stream.length + s.cfg.markerLen := by
    rw [hin, size_fileBytes, hlen]
  have hroom : ¬Buffer.size s.inBuf < headerLen + s.cfg.markerLen := by omega
  rw [← hin, hlen] at hmarker
  rw [startFileDecBody, if_neg hroom, hcap, if_neg Bool.false_ne_true, hsize, Nat.add_sub_cancel,
    readIn_of_readN hmarker, if_pos (markerAccepted_match s), afterMarkerCheck_match, Nat.add_sub_cancel_left]
  exact if_pos (by rw [setLatch_cfg, fitsPosWidth_none hw, fitsPosWidth_none hw]; rfl)

/-- With every payload byte read, FILE_DEC ends with the latched header (45 R272). -/
theorem finishDecode_fileDec (hread : s.inPos = s.payLen) :
    finishDecode .fileDec s = .next (complete none (some s.latch) s) :=
  if_neg (not_not.2 hread)

/-- The start of a FILE_DEC of a file with a legal header within MAX_PIXELS, with unbounded counters. -/
theorem startCommand_fileDec (hin : s.inBuf = Buffer.ofList (fileBytes s.cfg hb stream))
    (he : headerEncode h = .ok hb) (hw : s.cfg.posWidth = none) (hcap : overCapacity s.cfg (pixelCount h) = false) :
    startCommand .fileDec s = .next (initDecode headerLen stream.length (pixelCount h) (setLatch h s)) := by
  have hlen := headerEncode_length he
  have hlong : ¬Buffer.size s.inBuf < headerLen := by rw [hin, size_fileBytes, hlen]; omega
  obtain ⟨hheader, -, -⟩ := readN_fileBytes s.cfg hb stream
  rw [← hin, hlen] at hheader
  simp only [startCommand, startFileDec, if_neg hlong, readIn_of_readN hheader,
    headerDecode_eq_ok_iff_headerEncode.2 he]
  exact startFileDecBody_fileBytes hin hlen hw hcap

end

/-- The block at the start of the decode loop of FILE_DEC, its input filled with the file of the header `h` with the
bytes `hb`, and the command issued from `s`. -/
def fileDecodeStarted (h : Header) (hb stream : List Byte) (s : State) : State :=
  initDecode headerLen stream.length (pixelCount h) (setLatch h
    (issueCommand .fileDec { s with turns := [], inBuf := Buffer.ofList (fileBytes s.cfg hb stream) }))

section
variable {s t : State} {h : Header} {hb stream : List Byte} {x : List Pixel}

/-- From the host's two moves to the start of the decode loop. -/
theorem runFor_fileDecodeStarted (hp : s.phase ≠ .busy) (hw : s.cfg.posWidth = none) (he : headerEncode h = .ok hb)
    (hcap : overCapacity s.cfg (pixelCount h) = false) :
    runFor 3 { s with turns := [.host (.writeIn (fileBytes s.cfg hb stream)), .host (.issue .fileDec)] } =
      .next (fileDecodeStarted h hb stream s) := by
  have hstart : step (issueCommand .fileDec
      { s with turns := [], inBuf := Buffer.ofList (fileBytes s.cfg hb stream) }) =
      .next (fileDecodeStarted h hb stream s) := by
    rw [step_issueCommand rfl]
    exact startCommand_fileDec rfl he hw hcap
  have hmoves := runFor_fill_issue (s := s) (fill := .writeIn (fileBytes s.cfg hb stream)) (c := .fileDec)
    (if_neg hp) rfl hp
  rw [hmoves, runFor_succ_of_step hstart, runFor_zero]

/-- The payload is the bytes between header and marker. -/
theorem decodesStream_fileStarted (hlen : hb.length = headerLen) (h : Header) (stream : List Byte) (s : State) :
    DecodesStream stream (fileDecodeStarted h hb stream s) := by
  obtain ⟨-, hstream, -⟩ := readN_fileBytes s.cfg hb stream
  have hsize := size_fileBytes s.cfg hb stream
  rw [hlen] at hstream hsize
  have hpayload : headerLen + stream.length ≤ _ := (Nat.le_add_right _ _).trans hsize.ge
  exact ⟨⟨rfl, rfl, Option.some_ne_none _, rfl, Buffer.dense_ofList _, hpayload⟩, hstream⟩

theorem follows_fileStarted (hcfg : t.cfg = s.cfg) (hseed : SeedOk s.cfg) (h : Header) (hb stream : List Byte)
    (x : List Pixel) :
    Follows (fileDecodeStarted h hb stream t) [] (fileEncodeStarted h hb x s) (fileDecodeStarted h hb stream t) := by
  refine follows_start ?_ ?_ _ _ _ _
  exacts [hcfg, hseed]

/-- All pixels written and all bytes read, the next step ends FILE_DEC with the header and these pixels. -/
theorem step_caughtUp_fileEnd {e : State} (hs : e.out = stream) (hn : x.length = pixelCount h)
    (cache : Vector Pixel 64) :
    ∃ u, step (caughtUp (fileDecodeStarted h hb stream s) e cache x) = .next u ∧
      u.phase = .done ∧ readHdr u = .ok h ∧ readPixOut u = .ok x := by
  have hrun : Running .decode (caughtUp (fileDecodeStarted h hb stream s) e cache x) :=
    ⟨rfl, rfl, Option.some_ne_none _, .inl rfl⟩
  have hfinish := finishDecode_fileDec
    (s := afterTurn (caughtUp (fileDecodeStarted h hb stream s) e cache x)) (congrArg _ hs)
  refine ⟨_, (step_of_pixels_done hrun rfl hn.ge).trans hfinish, rfl, rfl, ?_⟩
  simp [readPixOut, resultPixels, caughtUp, fileDecodeStarted, initDecode, issueCommand, afterTurn, setLatch, ← hn]

/-- FILE_DEC, issued from any block with the same parameters, gives back the header and the pixels that FILE_ENC was
given. -/
theorem runFor_fileDec_encoded (hp : t.phase ≠ .busy) (hcfg : t.cfg = s.cfg) (hw : s.cfg.posWidth = none)
    (hseed : SeedOk s.cfg) (he : headerEncode h = .ok hb) (hn : x.length = pixelCount h)
    (hcap : overCapacity s.cfg x.length = false) :
    ∃ k u, runFor k { t with turns := [.host (.writeIn (fileBytes s.cfg hb (fileEncoded h hb x s).out)),
        .host (.issue .fileDec)] } = .next u ∧
      u.phase = .done ∧ readHdr u = .ok h ∧ readPixOut u = .ok x := by
  rw [hn] at hcap
  have hstart := runFor_fileDecodeStarted (stream := (fileEncoded h hb x s).out) hp (hcfg ▸ hw) he (hcfg ▸ hcap)
  have hfollows := follows_fileStarted hcfg hseed h hb (fileEncoded h hb x s).out x
  obtain ⟨k, v, hrun, hv⟩ := hfollows.encodePixels (decodesStream_fileStarted (headerEncode_length he) _ _ _)
    (encodeBounds_initEncode _ _) List.prefix_rfl hn.le
  obtain ⟨cache, rfl⟩ := hv.caughtUp_of_no_run (fileEncoded_run hw h hb x)
  obtain ⟨u, hend, hdone, hhdr, hread⟩ :=
    step_caughtUp_fileEnd (s := t) (hb := hb) (e := fileEncoded h hb x s) rfl hn cache
  rw [← hcfg]
  exact ⟨3 + (k + 1), u, (runFor_add hstart _).trans (runFor_succ_of_runFor hrun hend), hdone, hhdr, hread⟩

end

/-- Settles O60: a legal header has its bytes, FILE_ENC ends with the file readable, and FILE_DEC finds the header and
END_MARKER around the payload and runs on it in lock-step with the encoder. -/
theorem fileRoundTrip : Obligations.FileRoundTrip := by
  intro s h x hp hw hseed hchannels hcolor hn hcap
  obtain ⟨hb, he⟩ : ∃ hb, headerEncode h = .ok hb :=
    ⟨_, headerEncode_eq_ok_iff.2 ⟨by simpa [legalChannels] using hchannels,
      by simpa [legalColorSpace] using hcolor, rfl⟩⟩
  have hdone : (fileEncodeDone h hb x s).phase ≠ .busy := by rw [fileEncodeDone, complete_phase]; decide
  exact ⟨_, _, _, runFor_fileEnc hp hw he hn hcap, rfl, readOut_fileEncodeDone h hb x s,
    runFor_fileDec_encoded hdone (fileEncoded_cfg h hb x s) hw hseed he hn hcap⟩

end Sys2Proof.Machine

/-! Missing bytes (60_exceptions R305): both of the rule's cases are a missing chunk. -/

namespace Sys2Proof.Machine

theorem chunkMissing_of_no_tag {s : State} (h : s.payLen ≤ s.inPos) : chunkMissing s = true := by
  rw [chunkMissing, decide_eq_true h, Bool.true_or]

/-- Settles O23: without a tag byte, or with one that declares too much, the chunk is missing and the step aborts. -/
theorem missingBytesAbort : Obligations.MissingBytesAbort := by
  intro s hrun hn hshort
  refine step_aborts_of_missing hrun hn ?_
  obtain hnone | ⟨b0, hread, hlen⟩ := hshort
  · exact chunkMissing_of_no_tag hnone
  · exact chunkMissing_of_short hread hlen

end Sys2Proof.Machine

/-! Noninterference (10_state R35, R38; 70_reset R342): two states that differ only in working state that is not read
have the same outcome. The second state is written as the first one with some of another state's working fields, so
that every check of the model, which reads none of them, is the same term on both sides. -/

namespace Sys2Proof.Machine

/-! ### SameOutcome -/

theorem SamePublic.refl (s : State) : SamePublic s s := by constructor <;> rfl

theorem SameDecoder.refl (s : State) : SameDecoder s s := ⟨rfl, rfl, rfl, rfl, rfl, rfl, rfl, fun _ => rfl⟩

theorem SameEncoder.refl (s : State) : SameEncoder s s := by constructor <;> rfl

theorem Indistinguishable.refl (s : State) : Indistinguishable s s :=
  ⟨.refl s, fun _ _ => .refl s, fun _ _ => .refl s⟩

theorem SameOutcome.refl (r : Result) : SameOutcome r r := by
  cases r with
  | next s => exact Indistinguishable.refl s
  | fault _ | refused _ => rfl

theorem SameOutcome.ite {p : Prop} [Decidable p] {a a' b b' : Result} (ha : SameOutcome a a') (hb : SameOutcome b b') :
    SameOutcome (if p then a else b) (if p then a' else b') := by
  split
  · exact ha
  · exact hb

theorem sameOutcome_readIn {s t : State} {a len : Nat} {k k' : List Byte → Result} (hin : t.inBuf = s.inBuf)
    (hk : ∀ bytes, SameOutcome (k bytes) (k' bytes)) : SameOutcome (readIn a len s k) (readIn a len t k') := by
  rw [readIn, readIn, hin]
  cases Buffer.readN s.inBuf a len with
  | none => rfl
  | some bytes => exact hk bytes

/-! ### States that differ in working state only -/

/-- `s` with the whole working state of `w`: what no transaction's first step and no host move reads (10_state R35). -/
def withWorkingOf (w s : State) : State :=
  { s with
    prev := w.prev
    cache := w.cache
    inPos := w.inPos
    outPos := w.outPos
    pixPos := w.pixPos
    run := w.run
    out := w.out
    latch := w.latch
    n := w.n
    payBase := w.payBase
    payLen := w.payLen }

/-- `s` with those working fields of `w` that are not the decoder's (10_state R25). The latch is read at the end of a
FILE_DEC only. -/
def withUnreadByDecoder (w s : State) : State :=
  { s with pixPos := w.pixPos, run := w.run, out := w.out, latch := w.latch }

/-- `s` with those working fields of `w` that are not the encoder's (10_state R28). -/
def withUnreadByEncoder (w s : State) : State :=
  { s with inPos := w.inPos, outPos := w.outPos, latch := w.latch, payBase := w.payBase, payLen := w.payLen }

section
variable {s t w : State}

theorem SamePublic.exists_withWorkingOf (h : SamePublic s t) : ∃ w, t = withWorkingOf w s := by
  obtain ⟨hcfg, hphase, herr, houtLen, hhdr, hin, hout, hpixIn, hpixOut, hcmd, hstage, hdraws, hturns⟩ := h
  refine ⟨t, ?_⟩
  rw [withWorkingOf, ← hcfg, ← hphase, ← herr, ← houtLen, ← hhdr, ← hin, ← hout, ← hpixIn, ← hpixOut, ← hcmd,
    ← hstage, ← hdraws, ← hturns]

theorem SameDecoder.exists_withUnreadByDecoder (hd : SameDecoder s t) (h : SamePublic s t) :
    ∃ w, t = withUnreadByDecoder w s ∧ (s.cmd = some .fileDec → w.latch = s.latch) := by
  obtain ⟨w, rfl⟩ := h.exists_withWorkingOf
  obtain ⟨hprev, hcache, hinPos, houtPos, hn, hbase, hlen, hlatch⟩ := hd
  refine ⟨withWorkingOf w s, ?_, hlatch⟩
  rw [withUnreadByDecoder, ← hprev, ← hcache, ← hinPos, ← houtPos, ← hn, ← hbase, ← hlen]
  rfl

theorem SameEncoder.exists_withUnreadByEncoder (he : SameEncoder s t) (h : SamePublic s t) :
    ∃ w, t = withUnreadByEncoder w s := by
  obtain ⟨w, rfl⟩ := h.exists_withWorkingOf
  obtain ⟨hprev, hcache, hpixPos, hrun, hout, hn⟩ := he
  refine ⟨withWorkingOf w s, ?_⟩
  rw [withUnreadByEncoder, ← hprev, ← hcache, ← hpixPos, ← hrun, ← hout, ← hn]
  rfl

/-- Outside the two loops no working field may be read. -/
theorem indistinguishable_withWorkingOf (h : s.phase = .busy → s.stage = .start) (w : State) :
    Indistinguishable s (withWorkingOf w s) where
  same := by constructor <;> rfl
  decoder hb hs := nomatch (h hb).symm.trans hs
  encoder hb hs := nomatch (h hb).symm.trans hs

theorem indistinguishable_withUnreadByDecoder (hs : s.stage = .decode)
    (hl : s.cmd = some .fileDec → w.latch = s.latch) : Indistinguishable s (withUnreadByDecoder w s) where
  same := by constructor <;> rfl
  decoder _ _ := ⟨rfl, rfl, rfl, rfl, rfl, rfl, rfl, hl⟩
  encoder _ hs' := nomatch hs.symm.trans hs'

theorem indistinguishable_withUnreadByEncoder (hs : s.stage = .encode) (w : State) :
    Indistinguishable s (withUnreadByEncoder w s) where
  same := by constructor <;> rfl
  decoder _ hs' := nomatch hs.symm.trans hs'
  encoder _ _ := by constructor <;> rfl

/-! ### The start of a command: a check that fails discards the working state, and a loop begins with its own values -/

theorem sameOutcome_startDecode (base len count : Nat) (hl : s.cmd = some .fileDec → w.latch = s.latch) :
    SameOutcome (startDecode base len count s) (startDecode base len count (withWorkingOf w s)) :=
  .ite (indistinguishable_withUnreadByDecoder (s := initDecode base len count s) rfl hl) rfl

theorem sameOutcome_checkOutLen (hs : s.stage = .encode) (w : State) :
    SameOutcome (checkOutLen s) (checkOutLen (withUnreadByEncoder w s)) :=
  .ite (indistinguishable_withUnreadByEncoder hs w) rfl

theorem sameOutcome_startEncode (count : Nat) (w s : State) :
    SameOutcome (startEncode count s) (startEncode count (withWorkingOf w s)) :=
  .ite (sameOutcome_checkOutLen (s := initEncode count s) rfl w) rfl

theorem sameOutcome_startFileEnc (h : Header) (w s : State) :
    SameOutcome (startFileEnc h s) (startFileEnc h (withWorkingOf w s)) := by
  refine .ite (.refl _) ?_
  cases headerEncode h with
  | error e => exact .refl _
  | ok bytes =>
    exact .ite (.refl _) (sameOutcome_startEncode _ (setLatch h w) (writeOut bytes (clearOut (setLatch h s))))

theorem afterMarkerCheck_withWorkingOf (bytes : List Byte) (w s : State) :
    afterMarkerCheck bytes (withWorkingOf w s) = withWorkingOf w (afterMarkerCheck bytes s) := by
  rw [afterMarkerCheck, afterMarkerCheck, apply_ite (withWorkingOf w)]
  cases hm : s.cfg.endMarkerCheck <;> simp only [withWorkingOf, hm]

/-- FILE_DEC latches its own header before its decode loop begins (10_state R34). -/
theorem sameOutcome_startFileDecBody (h : Header) (w s : State) :
    SameOutcome (startFileDecBody h s) (startFileDecBody h (withWorkingOf w s)) := by
  refine .ite (.refl _) (.ite (.refl _) (sameOutcome_readIn rfl fun bytes => ?_))
  rw [afterMarkerCheck_withWorkingOf]
  refine .ite ?_ (.refl _)
  exact sameOutcome_startDecode (w := setLatch h w) (s := setLatch h (afterMarkerCheck bytes s)) _ _ _ fun _ => rfl

theorem sameOutcome_startFileDec (w s : State) :
    SameOutcome (startFileDec s) (startFileDec (withWorkingOf w s)) := by
  refine .ite (.refl _) (sameOutcome_readIn rfl fun bytes => ?_)
  cases headerDecode bytes with
  | error e => exact .refl _
  | ok h => exact sameOutcome_startFileDecBody h w s

/-- HDR_ENC and HDR_DEC end at once and discard the whole working state; the others begin their loops. -/
theorem sameOutcome_startCommand {c : Command} (hc : s.cmd = some c) (w : State) :
    SameOutcome (startCommand c s) (startCommand c (withWorkingOf w s)) := by
  cases c with
  | hdrEnc h => exact .refl (runHdrEnc h s)
  | hdrDec => exact .refl (runHdrDec s)
  | encode => exact .ite (.refl _) (sameOutcome_startEncode _ w (clearOut s))
  | decode count => exact .ite (.refl _) (sameOutcome_startDecode _ _ _ fun hf => nomatch hc.symm.trans hf)
  | fileEnc h => exact sameOutcome_startFileEnc h w s
  | fileDec => exact sameOutcome_startFileDec w s

/-! ### The decode loop -/

theorem sameOutcome_exec (i : Instr) (hs : s.stage = .decode) (hl : s.cmd = some .fileDec → w.latch = s.latch) :
    SameOutcome (exec i s) (exec i (withUnreadByDecoder w s)) := by
  have hput (len : Nat) (p : Pixel) : SameOutcome (.next (advance len (put p s)))
      (.next (withUnreadByDecoder w (advance len (put p s)))) :=
    indistinguishable_withUnreadByDecoder (s := advance len (put p s)) hs hl
  cases i with
  | run c => exact .ite (.refl _) (indistinguishable_withUnreadByDecoder (s := advance 1 (putRun c s)) hs hl)
  | index _ | diff _ _ _ | luma _ _ _ | rgb _ _ _ | rgba _ _ _ _ => exact hput _ _

theorem chunkMissing_withUnreadByDecoder (w s : State) : chunkMissing (withUnreadByDecoder w s) = chunkMissing s := rfl

theorem fetchChunk_withUnreadByDecoder (w s : State) : fetchChunk (withUnreadByDecoder w s) = fetchChunk s := rfl

theorem sameOutcome_decodeStep (hs : s.stage = .decode) (hl : s.cmd = some .fileDec → w.latch = s.latch) :
    SameOutcome (decodeStep s) (decodeStep (withUnreadByDecoder w s)) := by
  rw [decodeStep, decodeStep, chunkMissing_withUnreadByDecoder, fetchChunk_withUnreadByDecoder]
  refine .ite (.refl _) ?_
  cases fetchChunk s with
  | none => rfl
  | some bytes =>
    dsimp only
    cases decode bytes with
    | error e => exact .refl _
    | ok r => exact sameOutcome_exec r.1 (s := refresh s) hs hl

/-- The end of a decode loop reads the latch for FILE_DEC only. -/
theorem sameOutcome_finishDecode {c : Command} (hc : s.cmd = some c)
    (hl : s.cmd = some .fileDec → w.latch = s.latch) :
    SameOutcome (finishDecode c s) (finishDecode c (withUnreadByDecoder w s)) := by
  refine .ite (.refl _) ?_
  cases c with
  | fileDec =>
    have hdone (h : Header) (heq : h = s.latch) :
        SameOutcome (.next (complete none (some s.latch) s)) (.next (complete none (some h) s)) := heq ▸ .refl _
    exact hdone w.latch (hl hc)
  | hdrEnc _ | hdrDec | encode | decode _ | fileEnc _ => exact .refl _

/-! ### The encode loop -/

theorem continueRun_withUnreadByEncoder (w s : State) :
    continueRun (withUnreadByEncoder w s) = withUnreadByEncoder w (continueRun s) := by
  rw [continueRun, continueRun, apply_ite (withUnreadByEncoder w)]
  rfl

theorem flushOpenRun_withUnreadByEncoder (w s : State) :
    flushOpenRun (withUnreadByEncoder w s) = withUnreadByEncoder w (flushOpenRun s) := by
  rw [flushOpenRun, flushOpenRun, apply_ite (withUnreadByEncoder w)]
  rfl

theorem encodeNew_withUnreadByEncoder (p : Pixel) (w s : State) :
    encodeNew p (withUnreadByEncoder w s) = withUnreadByEncoder w (encodeNew p s) := by
  rw [encodeNew, encodeNew, apply_ite (withUnreadByEncoder w)]
  rfl

theorem encodePixel_withUnreadByEncoder (p : Pixel) (w s : State) :
    encodePixel p (withUnreadByEncoder w s) = withUnreadByEncoder w (encodePixel p s) := by
  rw [encodePixel, encodePixel, continueRun_withUnreadByEncoder, flushOpenRun_withUnreadByEncoder,
    encodeNew_withUnreadByEncoder, ← apply_ite (withUnreadByEncoder w)]
  rfl

theorem sameOutcome_encodeStep (hs : s.stage = .encode) (w : State) :
    SameOutcome (encodeStep s) (encodeStep (withUnreadByEncoder w s)) := by
  have hread : Buffer.read (withUnreadByEncoder w s).pixIn (withUnreadByEncoder w s).pixPos =
      Buffer.read s.pixIn s.pixPos := rfl
  rw [encodeStep, encodeStep, hread]
  cases Buffer.read s.pixIn s.pixPos with
  | none => rfl
  | some p =>
    dsimp only
    rw [encodePixel_withUnreadByEncoder]
    exact sameOutcome_checkOutLen ((pixelFrame_encodePixel p s).stage.trans hs) w

theorem sameOutcome_finishEncode (c : Command) (w s : State) :
    SameOutcome (finishEncode c s) (finishEncode c (withUnreadByEncoder w s)) := .refl (finishEncode c s)

/-! ### The engine's turn -/

theorem engineStep_of_no_command (h : s.cmd = none) : engineStep s = .fault .noTransaction := by
  rw [engineStep, h]

theorem Indistinguishable.sameOutcome_engineStep (h : Indistinguishable s t) (hb : s.phase = .busy) :
    SameOutcome (engineStep s) (engineStep t) := by
  cases hc : s.cmd with
  | none => rw [engineStep_of_no_command hc, engineStep_of_no_command (h.same.cmd.trans hc)]; rfl
  | some c =>
    have hct := h.same.cmd.trans hc
    cases hs : s.stage with
    | start =>
      rw [engineStep_start hc hs, engineStep_start hct (h.same.stage.trans hs)]
      obtain ⟨w, rfl⟩ := h.same.exists_withWorkingOf
      exact sameOutcome_startCommand hc w
    | encode =>
      rw [engineStep_encode hc hs, engineStep_encode hct (h.same.stage.trans hs)]
      obtain ⟨w, rfl⟩ := (h.encoder hb hs).exists_withUnreadByEncoder h.same
      exact .ite (sameOutcome_encodeStep hs w) (sameOutcome_finishEncode c w s)
    | decode =>
      rw [engineStep_decode hc hs, engineStep_decode hct (h.same.stage.trans hs)]
      obtain ⟨w, rfl, hl⟩ := (h.decoder hb hs).exists_withUnreadByDecoder h.same
      exact .ite (sameOutcome_decodeStep hs hl) (sameOutcome_finishDecode hc hl)

theorem Indistinguishable.sameOutcome_engineTurn (h : Indistinguishable s t) :
    SameOutcome (engineTurn s) (engineTurn t) := by
  rw [engineTurn, engineTurn, h.same.phase]
  split
  next hb => exact h.sameOutcome_engineStep hb
  next => exact h

/-! ### A host move -/

theorem resetOutputs_withWorkingOf (w s : State) :
    resetOutputs (withWorkingOf w s) = withWorkingOf w (resetOutputs s) := by
  rw [resetOutputs, resetOutputs, apply_ite (withWorkingOf w)]
  rfl

theorem blockReset_withWorkingOf (w s : State) : blockReset (withWorkingOf w s) = blockReset s := by
  rw [blockReset, blockReset, resetOutputs_withWorkingOf]
  rfl

theorem Indistinguishable.sameOutcome_observe {α : Type} (h : Indistinguishable s t) (answer : Except Refusal α) :
    SameOutcome (observe answer s) (observe answer t) := by
  cases answer with
  | ok _ => exact h
  | error _ => rfl

/-- No answer to the host reads the working state, and an issue, a fill and a reset leave none that may be read. -/
theorem Indistinguishable.sameOutcome_hostMove (h : Indistinguishable s t) (m : HostMove) :
    SameOutcome (hostMove m s) (hostMove m t) := by
  obtain ⟨w, rfl⟩ := h.same.exists_withWorkingOf
  have hfill (u : State) (hu : u.phase = s.phase) :
      SameOutcome (if s.phase = .busy then .refused .inputWriteWhileBusy else .next u)
        (if s.phase = .busy then .refused .inputWriteWhileBusy else .next (withWorkingOf w u)) := by
    split
    next => rfl
    next hidle => exact indistinguishable_withWorkingOf (fun hb => absurd (hu.symm.trans hb) hidle) w
  cases m with
  | issue c => exact .ite rfl (indistinguishable_withWorkingOf (s := issueCommand c s) (fun _ => rfl) w)
  | writeIn bytes => exact hfill { s with inBuf := Buffer.ofList bytes } rfl
  | writePixIn pixels => exact hfill { s with pixIn := Buffer.ofList pixels } rfl
  | reset =>
    rw [hostMove, hostMove, blockReset_withWorkingOf]
    exact .refl _
  | readPhase | readErr => exact h
  | readOutLen => exact h.sameOutcome_observe (readOutLen s)
  | readHdr => exact h.sameOutcome_observe (readHdr s)
  | readOut => exact h.sameOutcome_observe (readOut s)
  | readPixOut => exact h.sameOutcome_observe (readPixOut s)

/-! ### One step -/

theorem indistinguishable_afterTurn (h : Indistinguishable s t) : Indistinguishable (afterTurn s) (afterTurn t) where
  same := { h.same with turns := congrArg List.tail h.same.turns }
  decoder hb hs := { h.decoder hb hs with }
  encoder hb hs := { h.encoder hb hs with }

theorem step_of_host {m : HostMove} {rest : List Turn} (h : s.turns = .host m :: rest) :
    step s = hostMove m (afterTurn s) := by
  simp only [step, afterTurn, restTurns, h, List.tail_cons]

theorem engineMoves_or_host (s : State) : EngineMoves s ∨ ∃ m rest, s.turns = .host m :: rest := by
  rcases hturns : s.turns with _ | ⟨_ | m, rest⟩
  · exact .inl (.inl hturns)
  · exact .inl (.inr ⟨rest, hturns⟩)
  · exact .inr ⟨m, rest, rfl⟩

end

/-- Settles O54: the same turn comes next in both states, and both the engine's transition and the host's move have the
same outcome from them. -/
theorem transactionsAreIndependent : Obligations.TransactionsAreIndependent := by
  intro s t h
  obtain hm | ⟨m, rest, hm⟩ := engineMoves_or_host s
  · have hmt : EngineMoves t := by rwa [EngineMoves, h.same.turns]
    rw [step_of_engineMoves hm, step_of_engineMoves hmt]
    exact (indistinguishable_afterTurn h).sameOutcome_engineTurn
  · rw [step_of_host hm, step_of_host (h.same.turns.trans hm)]
    exact (indistinguishable_afterTurn h).sameOutcome_hostMove m

end Sys2Proof.Machine

/-! Progress (70_reset R351): with unbounded counters every transition of a running transaction answers a next state,
since no check of POS_WIDTH refuses and every read lies inside its string. -/

namespace Sys2Proof.Machine

section
variable {s : State}

theorem isNext_ite {p : Prop} [Decidable p] {a b : Result} (ha : ∃ t, a = .next t) (hb : ¬p → ∃ t, b = .next t) :
    ∃ t, (if p then a else b) = .next t := by
  split
  next => exact ha
  next hp => exact hb hp

/-! ### The start of a command -/

theorem readIn_isNext {a len : Nat} {k : List Byte → Result} (hd : Buffer.Dense s.inBuf)
    (hin : a + len ≤ Buffer.size s.inBuf) (hk : ∀ bytes, ∃ t, k bytes = .next t) :
    ∃ t, readIn a len s k = .next t := by
  obtain ⟨bytes, hr, -⟩ := hd.readN_isSome hin
  rw [readIn_of_readN hr]
  exact hk bytes

theorem startDecode_isNext (hw : s.cfg.posWidth = none) (base len count : Nat) :
    ∃ t, startDecode base len count s = .next t := by
  rw [startDecode, fitsPosWidth_none hw, fitsPosWidth_none hw]
  exact ⟨_, rfl⟩

theorem startEncode_isNext (hw : s.cfg.posWidth = none) (count : Nat) : ∃ t, startEncode count s = .next t := by
  rw [startEncode, fitsPosWidth_none hw]
  exact ⟨_, checkOutLen_unbounded hw⟩

theorem runHdrEnc_isNext (hw : s.cfg.posWidth = none) (h : Header) : ∃ t, runHdrEnc h s = .next t := by
  rw [runHdrEnc]
  split
  next => exact ⟨_, rfl⟩
  next => exact ⟨_, if_pos (fitsPosWidth_none hw _)⟩

theorem runHdrDec_isNext (hd : Buffer.Dense s.inBuf) : ∃ t, runHdrDec s = .next t := by
  refine isNext_ite ⟨_, rfl⟩ fun hlen => readIn_isNext hd (by omega) fun bytes => ?_
  split <;> exact ⟨_, rfl⟩

theorem startFileEnc_isNext (hw : s.cfg.posWidth = none) (h : Header) : ∃ t, startFileEnc h s = .next t := by
  refine isNext_ite ⟨_, rfl⟩ fun _ => ?_
  split
  next => exact ⟨_, rfl⟩
  next bytes _ =>
    exact isNext_ite ⟨_, rfl⟩ fun _ => startEncode_isNext (s := writeOut bytes (clearOut (setLatch h s))) hw _

@[simp] theorem afterMarkerCheck_cfg (bytes : List Byte) (s : State) : (afterMarkerCheck bytes s).cfg = s.cfg := by
  obtain h | h := afterMarkerCheck_cases bytes s <;> rw [h]

theorem startFileDecBody_isNext (hd : Buffer.Dense s.inBuf) (hw : s.cfg.posWidth = none) (h : Header) :
    ∃ t, startFileDecBody h s = .next t := by
  refine isNext_ite ⟨_, rfl⟩ fun hroom => isNext_ite ⟨_, rfl⟩ fun _ => readIn_isNext hd (by omega) fun bytes => ?_
  split
  next => exact startDecode_isNext (by rw [setLatch_cfg, afterMarkerCheck_cfg, hw]) _ _ _
  next => exact ⟨_, rfl⟩

theorem startFileDec_isNext (hd : Buffer.Dense s.inBuf) (hw : s.cfg.posWidth = none) :
    ∃ t, startFileDec s = .next t := by
  refine isNext_ite ⟨_, rfl⟩ fun hlen => readIn_isNext hd (by omega) fun bytes => ?_
  split
  next => exact ⟨_, rfl⟩
  next h _ => exact startFileDecBody_isNext hd hw h

theorem startCommand_isNext (hd : Buffer.Dense s.inBuf) (hw : s.cfg.posWidth = none) (c : Command) :
    ∃ t, startCommand c s = .next t := by
  cases c with
  | hdrEnc h => exact runHdrEnc_isNext hw h
  | hdrDec => exact runHdrDec_isNext hd
  | encode => exact isNext_ite ⟨_, rfl⟩ fun _ => startEncode_isNext (s := clearOut s) hw _
  | decode count => exact isNext_ite ⟨_, rfl⟩ fun _ => startDecode_isNext hw _ _ _
  | fileEnc h => exact startFileEnc_isNext hw h
  | fileDec => exact startFileDec_isNext hd hw

/-! ### The engine's transition -/

theorem encodeStep_isNext (hd : Buffer.Dense s.pixIn) (hw : s.cfg.posWidth = none)
    (hin : s.pixPos < s.pixIn.length) : ∃ t, encodeStep s = .next t := by
  obtain ⟨p, hr⟩ := hd.read_isSome hin
  exact ⟨_, encodeStep_of_read hw hr⟩

theorem engineStep_isNext (hi : Inv s) (hb : s.phase = .busy) (hw : s.cfg.posWidth = none) :
    ∃ t, engineStep s = .next t := by
  obtain ⟨c, hc⟩ := Option.ne_none_iff_exists'.1 (hi.has_command hb)
  cases hs : s.stage with
  | start =>
    rw [engineStep_start hc hs]
    exact startCommand_isNext hi.in_dense hw c
  | encode =>
    rw [engineStep_encode hc hs]
    split
    next hn => exact encodeStep_isNext hi.pixIn_dense hw ((hi.encoding hb hs).count ▸ hn)
    next => exact (finishEncode_done c hw).imp fun _ h => h.1
  | decode =>
    rw [engineStep_decode hc hs]
    split
    next => exact decodeStep_isNext hi.in_dense (hi.decoding hb hs).payload_in
    next => exact (finishDecode_ends c s).imp fun _ h => h.1

/-- The invariant says nothing of the planned turns. -/
theorem inv_afterTurn (h : Inv s) : Inv (afterTurn s) :=
  { h with
    decoding := fun hb hs => { h.decoding hb hs with }
    encoding := fun hb hs => { h.encoding hb hs with } }

end

/-- Settles O50: the step is the engine's transition, which answers a next state in each of its stages. -/
theorem busyEngineNeverStuck : Obligations.BusyEngineNeverStuck := by
  intro s hi hb hm hw
  rw [step_of_busy hb hm]
  exact engineStep_isNext (inv_afterTurn hi) hb hw

end Sys2Proof.Machine

/-! Chunks and their bytes (30_encoding R81 to R91): the kind a tag byte selects, every field in numbers, and a byte put
together again from its fields. -/

namespace Sys2Proof

/-- Settles O1: the tag byte selects the chunk's own kind, and the fields read back are the operands. -/
theorem decodeOfEncodeIsSame : Obligations.DecodeOfEncodeIsSame := fun _ rest h => decode_encode_append h rest

/-! ### The tag byte -/

/-- Settles O3: the table of the 256 tag bytes. -/
theorem tagByteSelectsOneKind : Obligations.TagByteSelectsOneKind := by
  unfold Obligations.TagByteSelectsOneKind
  decide

/-- The tag bits under which a kind is found; RUN shares 11 with the two literals (30_encoding R81). -/
def ChunkKind.tag : ChunkKind → BitVec 2
  | .index => 0b00
  | .diff => 0b01
  | .luma => 0b10
  | .run => 0b11
  | .rgb => 0b11
  | .rgba => 0b11

theorem tagBits_eq_tag (b0 : Byte) : tagBits b0 = (chunkKind b0).tag := by
  revert b0
  decide

theorem eq_of_chunkKind_rgb {b0 : Byte} (h : chunkKind b0 = .rgb) : b0 = 0xFE := by
  unfold chunkKind at h
  split_ifs at h
  assumption

theorem eq_of_chunkKind_rgba {b0 : Byte} (h : chunkKind b0 = .rgba) : b0 = 0xFF := by
  unfold chunkKind at h
  split_ifs at h
  assumption

/-! ### Every field in numbers -/

theorem field6_eq_ofNat (b : Byte) : field6 b = BitVec.ofNat 6 b.toNat := by
  apply BitVec.eq_of_toNat_eq
  simp [field6]

theorem field6_toNat (b : Byte) : (field6 b).toNat = b.toNat % 64 := by
  rw [field6_eq_ofNat, BitVec.toNat_ofNat]

theorem greenField_eq (b : Byte) : greenField b = (b.toNat % 64 : Nat) - 32 := by
  rw [← field6_toNat, greenField, field6]

theorem field2_eq (b : Byte) (lo : Nat) : field2 b lo = (b.toNat / 2 ^ lo % 4 : Nat) - 2 := by
  rw [field2, BitVec.extractLsb'_toNat, Nat.shiftRight_eq_div_pow]

theorem field4_eq (b : Byte) (lo : Nat) : field4 b lo = (b.toNat / 2 ^ lo % 16 : Nat) - 8 := by
  rw [field4, BitVec.extractLsb'_toNat, Nat.shiftRight_eq_div_pow]

/-! ### What the decoder reads, by the tag byte's kind -/

section
variable {b0 : Byte}

theorem decode_of_index (h : chunkKind b0 = .index) (bs : List Byte) :
    decode (b0 :: bs) = .ok (.index (field6 b0), bs) := by
  simp only [decode, h]

theorem decode_of_diff (h : chunkKind b0 = .diff) (bs : List Byte) :
    decode (b0 :: bs) = .ok (.diff (field2 b0 4) (field2 b0 2) (field2 b0 0), bs) := by
  simp only [decode, h]

theorem decode_of_luma (h : chunkKind b0 = .luma) (b1 : Byte) (bs : List Byte) :
    decode (b0 :: b1 :: bs) = .ok (.luma (greenField b0) (field4 b1 4) (field4 b1 0), bs) := by
  simp only [decode, h]

theorem decode_of_run (h : chunkKind b0 = .run) (bs : List Byte) :
    decode (b0 :: bs) = .ok (.run ((field6 b0).toNat + 1), bs) := by
  simp only [decode, h]

end

/-- Settles O5: the byte ranges are those of O3, and the fields are quotients and remainders of the byte. -/
theorem fieldsAreReadByPosition : Obligations.FieldsAreReadByPosition := by
  intro b0 b1 b2 b3 b4
  have hkind := tagByteSelectsOneKind b0
  have hb1 := b1.isLt
  refine ⟨fun hle => ?index, fun hge hle => ?diff, fun hge hle => ?luma, fun hge hle => ?run, rfl, rfl⟩
  case index =>
    rw [if_pos hle] at hkind
    rw [decode_of_index hkind, field6_eq_ofNat]
  case diff =>
    rw [if_neg (by omega), if_pos hle] at hkind
    simp only [decode_of_diff hkind, field2_eq, Nat.reducePow, Nat.div_one]
  case luma =>
    rw [if_neg (by omega), if_neg (by omega), if_pos hle] at hkind
    have hhigh : b1.toNat / 16 % 16 = b1.toNat / 16 := Nat.mod_eq_of_lt (by omega)
    simp only [decode_of_luma hkind, greenField_eq, field4_eq, Nat.reducePow, Nat.div_one, hhigh]
  case run =>
    rw [if_neg (by omega), if_neg (by omega), if_neg (by omega), if_pos hle] at hkind
    have hcount : b0.toNat % 64 + 1 = b0.toNat - 0xBF := by omega
    rw [decode_of_run hkind, field6_toNat, hcount]

/-- Settles O6: the decoder evaluated on each of the chunks. -/
theorem specChunksDecode : Obligations.SpecChunksDecode := ⟨rfl, rfl, rfl, rfl, rfl, rfl⟩

/-! ### The operands of a decoded chunk are in range -/

theorem field2_range (b : Byte) (lo : Nat) : DiffOperandOk (field2 b lo) := by
  rw [field2_eq]
  constructor <;> omega

theorem field4_range (b : Byte) (lo : Nat) : LumaCrossOk (field4 b lo) := by
  rw [field4_eq]
  constructor <;> omega

theorem greenField_range (b : Byte) : LumaGreenOk (greenField b) := by
  rw [greenField_eq]
  constructor <;> omega

/-- The counts 63 and 64 would need the two literal tag bytes (30_encoding R85). -/
theorem field6_range_of_run {b0 : Byte} (h : chunkKind b0 = .run) : RunCountOk ((field6 b0).toNat + 1) := by
  rw [tagByteSelectsOneKind] at h
  split_ifs at h
  rw [field6_toNat]
  constructor <;> omega

/-! ### A byte put together from its fields -/

theorem tag_field6_packed (b : Byte) : (tagBits b).setWidth 8 <<< 6 ||| (field6 b).setWidth 8 = b := by
  unfold tagBits field6
  ext i hi
  interval_cases i <;> simp

theorem tag_fields2_packed (b : Byte) :
    (tagBits b).setWidth 8 <<< 6 ||| (b.extractLsb' 4 2).setWidth 8 <<< 4 ||| (b.extractLsb' 2 2).setWidth 8 <<< 2 |||
      (b.extractLsb' 0 2).setWidth 8 = b := by
  unfold tagBits
  ext i hi
  interval_cases i <;> simp

theorem fields4_packed (b : Byte) : (b.extractLsb' 4 4).setWidth 8 <<< 4 ||| (b.extractLsb' 0 4).setWidth 8 = b := by
  ext i hi
  interval_cases i <;> simp

/-- Adding the bias back gives the field's bits (30_encoding R88). -/
theorem field2_biased (b : Byte) (lo : Nat) : BitVec.ofInt 8 (field2 b lo + 2) = (b.extractLsb' lo 2).setWidth 8 := by
  rw [field2, sub_add_cancel, BitVec.ofInt_natCast, BitVec.ofNat_toNat]

theorem field4_biased (b : Byte) (lo : Nat) : BitVec.ofInt 8 (field4 b lo + 8) = (b.extractLsb' lo 4).setWidth 8 := by
  rw [field4, sub_add_cancel, BitVec.ofInt_natCast, BitVec.ofNat_toNat]

theorem greenField_biased (b : Byte) : BitVec.ofInt 8 (greenField b + 32) = (field6 b).setWidth 8 := by
  rw [greenField, sub_add_cancel, BitVec.ofInt_natCast, BitVec.ofNat_toNat, field6]

section
variable {b0 : Byte}

theorem encode_field_index (h : chunkKind b0 = .index) : encode (.index (field6 b0)) = [b0] := by
  have hpacked : (field6 b0).setWidth 8 = b0 := by
    simpa [tagBits_eq_tag, h, ChunkKind.tag] using tag_field6_packed b0
  rw [encode, hpacked]

theorem encode_fields_diff (h : chunkKind b0 = .diff) :
    encode (.diff (field2 b0 4) (field2 b0 2) (field2 b0 0)) = [b0] := by
  have hpacked := tag_fields2_packed b0
  rw [tagBits_eq_tag, h] at hpacked
  rw [encode, field2_biased, field2_biased, field2_biased]
  exact congrArg (fun b => [b]) hpacked

theorem encode_fields_luma (h : chunkKind b0 = .luma) (b1 : Byte) :
    encode (.luma (greenField b0) (field4 b1 4) (field4 b1 0)) = [b0, b1] := by
  have hpacked := tag_field6_packed b0
  rw [tagBits_eq_tag, h] at hpacked
  rw [encode, greenField_biased, field4_biased, field4_biased, fields4_packed]
  exact congrArg (fun b => [b, b1]) hpacked

theorem encode_field_run (h : chunkKind b0 = .run) : encode (.run ((field6 b0).toNat + 1)) = [b0] := by
  have hpacked := tag_field6_packed b0
  rw [tagBits_eq_tag, h] at hpacked
  rw [encode, Nat.add_sub_cancel, BitVec.ofNat_toNat]
  exact congrArg (fun b => [b]) hpacked

end

/-- Settles O2: by the tag byte's kind, the fields are in range and packed again are the bytes they were read from. -/
theorem encodeOfDecodeIsSame : Obligations.EncodeOfDecodeIsSame := by
  intro c i rest h
  obtain _ | ⟨b0, bs⟩ := c
  case nil => cases h
  cases hk : chunkKind b0
  case index =>
    rw [decode_of_index hk] at h
    cases h
    exact ⟨rfl, by rw [encode_field_index hk]; rfl⟩
  case diff =>
    rw [decode_of_diff hk] at h
    cases h
    exact ⟨by simp [field2_range b0 _], by rw [encode_fields_diff hk]; rfl⟩
  case run =>
    rw [decode_of_run hk] at h
    cases h
    exact ⟨decide_eq_true (field6_range_of_run hk), by rw [encode_field_run hk]; rfl⟩
  case luma =>
    obtain _ | ⟨b1, bs⟩ := bs
    · simp only [decode, hk] at h
      cases h
    rw [decode_of_luma hk] at h
    cases h
    exact ⟨by simp [greenField_range b0, field4_range b1 _], by rw [encode_fields_luma hk]; rfl⟩
  case rgb =>
    simp only [decode, hk] at h
    split at h <;> cases h
    exact ⟨rfl, by rw [eq_of_chunkKind_rgb hk]; rfl⟩
  case rgba =>
    simp only [decode, hk] at h
    split at h <;> cases h
    exact ⟨rfl, by rw [eq_of_chunkKind_rgba hk]; rfl⟩

end Sys2Proof

/-! The assembler (30_encoding R97, R98): a file's text is the header, chunks and END, and so are its bytes. -/

namespace Sys2Proof.Machine

theorem assembleItem_chunk {i : Instr} (h : i.WellFormed = true) (c : Config) :
    assembleItem c (.chunk i) = some (encode i) :=
  if_pos h

theorem assemble_cons {c : Config} {x : Item} {xs : List Item} {bs rest : List Byte}
    (hx : assembleItem c x = some bs) (hxs : assemble c xs = some rest) : assemble c (x :: xs) = some (bs ++ rest) := by
  simp only [assemble, hx, hxs]

theorem assembleItem_hdr {h : Header} {hb : List Byte} (he : headerEncode h = .ok hb) (c : Config) :
    assembleItem c (.hdr h) = some hb := by
  simp only [assembleItem, he]

theorem isFileBody_chunks (is : List Instr) : isFileBody (is.map .chunk ++ [.fin]) = true := by
  induction is with
  | nil => rfl
  | cons i is ih => exact ih

theorem assemble_chunks (c : Config) {is : List Instr} (h : ∀ i ∈ is, i.WellFormed = true) :
    assemble c (is.map .chunk ++ [.fin]) = some ((is.map encode).flatten ++ c.endMarker) := by
  induction is with
  | nil => exact (assemble_cons (x := .fin) rfl rfl).trans (by simp)
  | cons i is ih =>
    obtain ⟨hi, his⟩ := List.forall_mem_cons.1 h
    rw [List.map_cons, List.cons_append, assemble_cons (assembleItem_chunk hi c) (ih his), List.map_cons,
      List.flatten_cons, List.append_assoc]

/-- Settles O7: the header's item, then the body by induction on its chunks. -/
theorem assembledFileIsHeaderChunksMarker : Obligations.AssembledFileIsHeaderChunksMarker := by
  intro c h hb is he his
  refine ⟨isFileBody_chunks is, ?_⟩
  rw [List.cons_append, assemble_cons (assembleItem_hdr he c) (assemble_chunks c his), List.append_assoc]

end Sys2Proof.Machine

/-! Transitions of a running transaction, by how they leave it: it goes on, it is aborted, or it is completed. -/

namespace Sys2Proof.Machine

/-- A transition inside a transaction: the status record, the command, the inputs and the parameters are as before. -/
structure GoesOn (s t : State) : Prop where
  cfg : t.cfg = s.cfg
  phase : t.phase = s.phase
  err : t.err = s.err
  outLen : t.outLen = s.outLen
  hdr : t.hdr = s.hdr
  inBuf : t.inBuf = s.inBuf
  pixIn : t.pixIn = s.pixIn
  cmd : t.cmd = s.cmd

section
variable {s t : State}

/-! ### The operations -/

theorem aborted_raise (e : ErrCode) (s : State) : Aborted e s (raise e s) := by constructor <;> rfl

theorem completed_complete (len : Option Nat) (h : Option Header) (s : State) :
    Completed len h s (complete len h s) := by constructor <;> rfl

theorem goesOn_initDecode (base len count : Nat) (s : State) : GoesOn s (initDecode base len count s) := by
  constructor <;> rfl

theorem goesOn_initEncode (count : Nat) (s : State) : GoesOn s (initEncode count s) := by constructor <;> rfl

theorem ChunkFrame.goesOn (h : ChunkFrame s t) : GoesOn s t :=
  ⟨h.cfg, h.phase, h.err, h.outLen, h.hdr, h.inBuf, h.pixIn, h.cmd⟩

theorem PixelFrame.goesOn (h : PixelFrame s t) : GoesOn s t :=
  ⟨h.cfg, h.phase, h.err, h.outLen, h.hdr, h.inBuf, h.pixIn, h.cmd⟩

/-- The marker's draw may use up a free index, and changes nothing else. -/
theorem afterMarkerCheck_eq (bytes : List Byte) (s : State) :
    ∃ d, afterMarkerCheck bytes s = { s with draws := d } := by
  obtain h | h := afterMarkerCheck_cases bytes s
  · exact ⟨s.draws, h⟩
  · exact ⟨s.draws + 1, h⟩

/-! ### The engine's transition -/

/-- How a transition of a running transaction leaves it. -/
inductive Leaves (s t : State) : Prop where
  | goesOn (h : GoesOn s t)
  | aborted (e : ErrCode) (he : e ≠ .none) (h : Aborted e s t)
  | completed (len : Option Nat) (hd : Option Header) (h : Completed len hd s t)

theorem Started.leaves {c : Command} (h : Started c s t) : Leaves s t := by
  cases h with
  | aborted e he h =>
    obtain rfl | rfl := h
    · exact .aborted e he (aborted_raise e s)
    · exact .aborted e he (by constructor <;> rfl)
  | hdrEncDone _ _ _ _ h => subst h; exact .completed _ _ (by constructor <;> rfl)
  | hdrDecDone _ _ _ _ _ _ h => subst h; exact .completed _ _ (completed_complete _ _ s)
  | encodeBegins _ h => subst h; exact .goesOn (by constructor <;> rfl)
  | decodeBegins _ _ h => subst h; exact .goesOn (goesOn_initDecode _ _ _ s)
  | fileEncBegins _ _ _ _ _ h => subst h; exact .goesOn (by constructor <;> rfl)
  | fileDecBegins _ _ marker _ _ _ _ _ _ h =>
    obtain ⟨d, hd⟩ := afterMarkerCheck_eq marker s
    subst h
    rw [hd]
    exact .goesOn (by constructor <;> rfl)

theorem leaves_of_finishEncode {c : Command} (h : finishEncode c s = .next t) : Leaves s t := by
  obtain ⟨-, rfl⟩ | ⟨-, rfl⟩ := finishEncode_next h <;> exact .completed _ _ (by constructor <;> rfl)

theorem leaves_of_finishDecode {c : Command} (h : finishDecode c s = .next t) : Leaves s t := by
  obtain ⟨-, rfl⟩ | ⟨-, -, rfl⟩ | ⟨-, -, rfl⟩ := finishDecode_next h
  · exact .aborted _ (by decide) (aborted_raise _ s)
  · exact .completed _ _ (completed_complete _ _ s)
  · exact .completed _ _ (completed_complete _ _ s)

/-- A chunk runs on the refreshed state, whose public part is that of the state before it. -/
theorem Ran.leaves {i : Instr} (h : Ran i (refresh s) t) : Leaves s t := by
  obtain rfl | ⟨hf, -, -⟩ := h.overflow_or_frame
  · exact .aborted _ (by decide) (aborted_raise_refresh _ s)
  · obtain ⟨hcfg, hphase, herr, houtLen, hhdr, hin, hpixIn, hcmd⟩ := hf.goesOn
    exact .goesOn ⟨hcfg, hphase, herr, houtLen, hhdr, hin, hpixIn, hcmd⟩

theorem Engine.leaves (h : Engine s t) : Leaves s t := by
  cases h with
  | start _ _ _ h => exact h.leaves
  | pixel p _ _ _ _ _ h => subst h; exact .goesOn (pixelFrame_encodePixel p s).goesOn
  | encodeEnds _ _ _ _ h => exact leaves_of_finishEncode h
  | chunk _ _ _ _ _ _ _ _ h => exact h.leaves
  | truncated _ _ _ _ _ h => subst h; exact .aborted _ (by decide) (aborted_raise_refresh _ s)
  | decodeEnds _ _ _ _ h => exact leaves_of_finishDecode h

theorem Leaves.keeps_inputs (h : Leaves s t) : t.cfg = s.cfg ∧ t.inBuf = s.inBuf ∧ t.pixIn = s.pixIn := by
  cases h with
  | goesOn h => exact ⟨h.cfg, h.inBuf, h.pixIn⟩
  | aborted _ _ h => exact ⟨h.cfg, h.inBuf, h.pixIn⟩
  | completed _ _ h => exact ⟨h.cfg, h.inBuf, h.pixIn⟩

/-! ### One step -/

/-- Everything a step can be when it answers a next state. -/
inductive Stepped (s t : State) : Prop where
  | engine (hm : EngineMoves s) (hb : s.phase = .busy) (h : Engine (afterTurn s) t)
  | waits (hm : EngineMoves s) (hb : s.phase ≠ .busy) (h : t = afterTurn s)
  | host (m : HostMove) (rest : List Turn) (hm : s.turns = .host m :: rest) (h : Moved m (afterTurn s) t)

theorem stepped_of_step (h : step s = .next t) : Stepped s t := by
  obtain hm | ⟨m, rest, hm⟩ := engineMoves_or_host s
  · rw [step_of_engineMoves hm] at h
    obtain ⟨hb, h⟩ | ⟨hb, h⟩ := engineTurn_next h
    · exact .engine hm hb h
    · exact .waits hm hb h
  · rw [step_of_host hm] at h
    exact .host m rest hm (hostMove_next h)

theorem not_engineMoves_of_host {m : HostMove} {rest : List Turn} (h : s.turns = .host m :: rest) :
    ¬EngineMoves s := by
  rintro (hm | ⟨rest', hm⟩)
  · cases h.symm.trans hm
  · cases h.symm.trans hm

theorem Moved.cfg {m : HostMove} (h : Moved m s t) : t.cfg = s.cfg := by
  cases h with
  | issued _ _ _ h => rw [h]; rfl
  | filledIn _ _ _ h => rw [h]
  | filledPixIn _ _ _ h => rw [h]
  | resets _ h => rw [h, blockReset_cfg]
  | observed h => rw [h]

end

/-- Settles O51: neither an engine's transition nor a host move writes the parameters. -/
theorem parametersNeverChange : Obligations.ParametersNeverChange := by
  intro s t h
  cases stepped_of_step h with
  | engine _ _ h => exact h.leaves.keeps_inputs.1
  | waits _ _ h => rw [h]; rfl
  | host _ _ _ h => exact h.cfg

/-- Settles O52: every way an engine's transition leaves the transaction keeps the inputs. -/
theorem engineNeverWritesInputs : Obligations.EngineNeverWritesInputs := by
  intro s t hm h
  cases stepped_of_step h with
  | engine _ _ h => exact h.leaves.keeps_inputs.2
  | waits _ _ h => subst h; exact ⟨rfl, rfl⟩
  | host _ _ hhost _ => exact absurd hm (not_engineMoves_of_host hhost)

/-- Settles O53: the engine changes the phase by an abort or a completion, the host by an issue or a reset. -/
theorem phaseChangesOnlyBy : Obligations.PhaseChangesOnlyBy := by
  intro s t h hne
  cases stepped_of_step h with
  | engine hm hb h =>
    refine .inr (.inr ⟨hm, hb, ?_⟩)
    cases h.leaves with
    | goesOn h => exact absurd h.phase hne
    | aborted e he h => exact .inr ⟨h.phase, h.err ▸ he⟩
    | completed _ _ h => exact .inl ⟨h.phase, h.err⟩
  | waits _ _ h => subst h; exact absurd rfl hne
  | host m rest hm h =>
    cases h with
    | issued c hissue hp h => subst hissue h; exact .inl ⟨c, rest, hm, hp, rfl⟩
    | resets hreset h => subst hreset h; exact .inr (.inl ⟨rest, hm, rfl⟩)
    | filledIn _ _ _ h => subst h; exact absurd rfl hne
    | filledPixIn _ _ _ h => subst h; exact absurd rfl hne
    | observed h => subst h; exact absurd rfl hne

end Sys2Proof.Machine

/-! The invariant of the block (10_state R26 to R32, 20_memory R50 to R53): it holds at power-on, and every step keeps
it. -/

namespace Sys2Proof.Machine

/-- Settles O48: at power-on the buffers are empty and no transaction runs. -/
theorem invHoldsAtReset : Obligations.InvHoldsAtReset where
  in_dense := rfl
  out_dense := rfl
  pixIn_dense := rfl
  pixOut_dense := rfl
  err_iff := by decide
  unspecified _ := ⟨rfl, rfl⟩
  has_command := nofun
  decoding := nofun
  encoding := nofun
  out_result := nofun
  pixOut_result := nofun

section
variable {s t : State} {c : Command}

/-! ### What each way to leave a transition needs -/

/-- Inside a transaction only the output buffers and the loop's counters are to be shown anew. -/
theorem Inv.of_goesOn (hi : Inv s) (hb : s.phase = .busy) (h : GoesOn s t) (hout : Buffer.Dense t.outBuf)
    (hpixOut : Buffer.Dense t.pixOut) (hdec : t.stage = .decode → DecodeOk t) (henc : t.stage = .encode → EncodeOk t) :
    Inv t := by
  have hbt : t.phase = .busy := h.phase.trans hb
  obtain ⟨houtLen, hhdr⟩ := hi.unspecified (by rw [hb]; decide)
  exact {
    in_dense := h.inBuf ▸ hi.in_dense
    out_dense := hout
    pixIn_dense := h.pixIn ▸ hi.pixIn_dense
    pixOut_dense := hpixOut
    err_iff := by rw [h.err, h.phase]; exact hi.err_iff
    unspecified := fun _ => ⟨h.outLen.trans houtLen, h.hdr.trans hhdr⟩
    has_command := fun _ => h.cmd ▸ hi.has_command hb
    decoding := fun _ => hdec
    encoding := fun _ => henc
    out_result := fun hd => nomatch hbt.symm.trans hd
    pixOut_result := fun hd => nomatch hbt.symm.trans hd }

/-- An abort leaves strings in the output buffers, whatever they hold. -/
theorem inv_raise (hin : Buffer.Dense s.inBuf) (hpixIn : Buffer.Dense s.pixIn) {e : ErrCode} (he : e ≠ .none) :
    Inv (raise e s) where
  in_dense := hin
  out_dense := Buffer.dense_ofList _
  pixIn_dense := hpixIn
  pixOut_dense := Buffer.dense_ofList _
  err_iff := by simp [he]
  unspecified _ := ⟨rfl, rfl⟩
  has_command := nofun
  decoding := nofun
  encoding := nofun
  out_result := nofun
  pixOut_result := nofun

/-- A completion needs results as long as its fields say. -/
theorem inv_complete (hin : Buffer.Dense s.inBuf) (hout : Buffer.Dense s.outBuf) (hpixIn : Buffer.Dense s.pixIn)
    (hpixOut : Buffer.Dense s.pixOut) {len : Option Nat} {hd : Option Header}
    (hlen : ∀ l, len = some l → s.outBuf.length = l)
    (hcount : ∀ count, resultPixels (complete len hd s) = some count → s.pixOut.length = count) :
    Inv (complete len hd s) where
  in_dense := hin
  out_dense := hout
  pixIn_dense := hpixIn
  pixOut_dense := hpixOut
  err_iff := by simp
  unspecified h := absurd rfl h
  has_command := nofun
  decoding := nofun
  encoding := nofun
  out_result _ := hlen
  pixOut_result _ := hcount

theorem resultPixels_of_decode {count : Nat} (h : s.cmd = some (.decode count)) : resultPixels s = some count := by
  rw [resultPixels, h]

theorem resultPixels_of_fileDec (h : s.cmd = some .fileDec) : resultPixels s = s.hdr.map pixelCount := by
  rw [resultPixels, h]

/-- Only DECODE and FILE_DEC have pixels as their result (45 R276). -/
theorem resultPixels_of_other (h : s.cmd = some c) (hdec : ∀ count, c ≠ .decode count) (hfile : c ≠ .fileDec) :
    resultPixels s = none := by
  rw [resultPixels, h]
  cases c with
  | decode count => exact absurd rfl (hdec count)
  | fileDec => exact absurd rfl hfile
  | hdrEnc _ | hdrDec | encode | fileEnc _ => rfl

/-- `resultPixels` reads `cmd` and `hdr` only, so a completed HDR_ENC, HDR_DEC, ENCODE or FILE_ENC has none. -/
theorem no_pixels {len : Option Nat} {hd : Option Header} {m : Nat} (hc : s.cmd = some c)
    (hdec : ∀ count, c ≠ .decode count) (hfile : c ≠ .fileDec) (count : Nat)
    (h : resultPixels (complete len hd s) = some count) : m = count := by
  cases (resultPixels_of_other (s := complete len hd s) hc hdec hfile).symm.trans h

/-! ### The start of a command -/

/-- A string appended to an empty buffer is all that the buffer holds. -/
theorem Buffer.writeN_empty {α : Type} (xs : List α) :
    Buffer.writeN ([] : Buffer α) (Buffer.size ([] : Buffer α)) xs = Buffer.ofList xs :=
  Buffer.writeN_ofList_end [] xs

theorem writeOut_clearOut_outBuf (bytes : List Byte) (s : State) :
    (writeOut bytes (clearOut s)).outBuf = Buffer.ofList bytes :=
  Buffer.writeN_empty bytes

theorem decodeOk_initDecode {base len count : Nat} (hpay : base + len ≤ s.inBuf.length)
    (hc : s.cmd = some (.decode count) ∨ s.cmd = some .fileDec ∧ count = pixelCount s.latch) :
    DecodeOk (initDecode base len count s) :=
  ⟨Nat.zero_le _, Nat.zero_le _, hpay, rfl, hc⟩

theorem encodeOk_initEncode (hc : s.cmd = some .encode ∨ ∃ h, s.cmd = some (.fileEnc h)) :
    EncodeOk (initEncode s.pixIn.length s) :=
  ⟨rfl, Nat.zero_le _, Nat.zero_le _, fun _ => rfl, hc⟩

theorem Inv.started (hi : Inv s) (hb : s.phase = .busy) (hc : s.cmd = some c) (h : Started c s t) : Inv t := by
  cases h with
  | aborted e he h =>
    obtain rfl | rfl := h
    · exact inv_raise hi.in_dense hi.pixIn_dense he
    · exact inv_raise (s := { s with draws := s.draws + 1 }) hi.in_dense hi.pixIn_dense he
  | hdrEncDone hd bytes hcmd _ h =>
    subst hcmd h
    have hout := writeOut_clearOut_outBuf bytes s
    refine inv_complete (s := writeOut bytes (clearOut s)) hi.in_dense (hout ▸ Buffer.dense_ofList bytes)
      hi.pixIn_dense hi.pixOut_dense ?_ (no_pixels hc nofun nofun)
    rintro _ ⟨⟩
    exact hout ▸ Buffer.size_ofList bytes
  | hdrDecDone hd bytes hcmd _ _ _ h =>
    subst hcmd h
    exact inv_complete hi.in_dense hi.out_dense hi.pixIn_dense hi.pixOut_dense nofun (no_pixels hc nofun nofun)
  | encodeBegins hcmd h =>
    subst hcmd h
    exact hi.of_goesOn hb (by constructor <;> rfl) rfl hi.pixOut_dense nofun
      fun _ => encodeOk_initEncode (s := clearOut s) (.inl hc)
  | decodeBegins count hcmd h =>
    subst hcmd h
    exact hi.of_goesOn hb (goesOn_initDecode _ _ _ s) hi.out_dense rfl
      (fun _ => decodeOk_initDecode (Nat.zero_add _).le (.inl hc)) nofun
  | fileEncBegins hd bytes hcmd hsize _ h =>
    subst hcmd h
    have hout := writeOut_clearOut_outBuf bytes (setLatch hd s)
    rw [← hsize]
    exact hi.of_goesOn hb (by constructor <;> rfl) (hout ▸ Buffer.dense_ofList bytes) hi.pixOut_dense nofun
      fun _ => encodeOk_initEncode (s := writeOut bytes (clearOut (setLatch hd s))) (.inr ⟨hd, hc⟩)
  | fileDecBegins hd bytes marker hcmd hroom _ _ _ _ h =>
    obtain ⟨d, hdraws⟩ := afterMarkerCheck_eq marker s
    subst hcmd h
    rw [hdraws]
    have hpay : headerLen + (s.inBuf.length - s.cfg.markerLen - headerLen) ≤ s.inBuf.length := by
      rw [Buffer.size] at hroom
      omega
    exact hi.of_goesOn hb (by constructor <;> rfl) hi.out_dense rfl
      (fun _ => decodeOk_initDecode (s := setLatch hd { s with draws := d }) hpay (.inr ⟨hc, rfl⟩)) nofun

/-! ### The decode loop -/

/-- A chunk inside the payload and the image keeps the counters there, and PIXOUT grows by what is counted. -/
theorem Inv.ran {i : Instr} (hi : Inv s) (hb : s.phase = .busy) (hs : s.stage = .decode) (hn : s.outPos < s.n)
    (hpay : s.inPos + i.kind.size ≤ s.payLen) (h : Ran i (refresh s) t) : Inv t := by
  obtain ⟨-, -, hbase, hwritten, hcmd⟩ := hi.decoding hb hs
  have hpix := hi.pixOut_dense
  cases h with
  | one p hp h =>
    subst h
    have hlen := Buffer.length_write_end hpix p
    have hdense := Buffer.dense_write_end hpix p
    rw [hwritten] at hlen hdense
    exact hi.of_goesOn hb (by constructor <;> rfl) hi.out_dense hdense
      (fun _ => ⟨hpay, hn, hbase, hlen, hcmd⟩) (fun he => nomatch hs.symm.trans he)
  | many count hrun hfits h =>
    subst hrun h
    have hlen := Buffer.length_writeN_end hpix (List.replicate count s.prev)
    have hdense := Buffer.dense_writeN_end hpix (List.replicate count s.prev)
    rw [hwritten] at hlen hdense
    rw [List.length_replicate] at hlen
    exact hi.of_goesOn hb (by constructor <;> rfl) hi.out_dense hdense
      (fun _ => ⟨hpay, hfits, hbase, hlen, hcmd⟩) (fun he => nomatch hs.symm.trans he)
  | overflow _ _ _ h =>
    subst h
    exact inv_raise (s := refresh s) hi.in_dense hi.pixIn_dense (by decide)

/-- At the end of a decode loop PIXOUT holds the pixels that the command, or its header, asks for. -/
theorem Inv.finishDecode (hi : Inv s) (hb : s.phase = .busy) (hs : s.stage = .decode) (hc : s.cmd = some c)
    (hn : s.n ≤ s.outPos) (h : finishDecode c s = .next t) : Inv t := by
  obtain ⟨-, hle, -, hwritten, hcmd⟩ := hi.decoding hb hs
  have hlen : s.pixOut.length = s.n := by omega
  obtain ⟨-, rfl⟩ | ⟨-, hfile, rfl⟩ | ⟨-, hfile, rfl⟩ := finishDecode_next h
  · exact inv_raise hi.in_dense hi.pixIn_dense (by decide)
  · refine inv_complete hi.in_dense hi.out_dense hi.pixIn_dense hi.pixOut_dense nofun fun count hcount => ?_
    obtain hdec | ⟨-, hlatch⟩ := hcmd
    · cases hfile ▸ hc.symm.trans hdec
    · rw [resultPixels_of_fileDec (hfile ▸ hc)] at hcount
      cases hcount
      exact hlen.trans hlatch
  · refine inv_complete hi.in_dense hi.out_dense hi.pixIn_dense hi.pixOut_dense nofun fun count hcount => ?_
    obtain hdec | ⟨hdec, -⟩ := hcmd
    · cases (resultPixels_of_decode (s := complete none none s) hdec).symm.trans hcount
      exact hlen
    · exact absurd (Option.some.inj (hc.symm.trans hdec)) hfile

/-! ### The encode loop -/

/-- 10_state R29: a run is flushed at 62 pixels and at the last pixel. -/
theorem encodePixel_run_range (p : Pixel) (h : s.run ≤ 61) : (encodePixel p s).run ≤ 61 ∧
    ((encodePixel p s).pixPos = s.n → (encodePixel p s).run = 0) := by
  apply encodePixel_cases (motive := fun _ t => t.run ≤ 61 ∧ (t.pixPos = s.n → t.run = 0))
  case flushed => exact fun _ => ⟨Nat.zero_le _, fun _ => rfl⟩
  case stillOpen =>
    intro hopen
    constructor <;> dsimp only <;> omega
  case differs => simp

theorem Inv.encodePixel (hi : Inv s) (hb : s.phase = .busy) (hs : s.stage = .encode) (hn : s.pixPos < s.n) (p : Pixel) :
    Inv (encodePixel p s) := by
  obtain ⟨hcount, -, hrun, -, hcmd⟩ := hi.encoding hb hs
  have hf := pixelFrame_encodePixel p s
  obtain ⟨bytes, ha⟩ := encodePixel_appends hi.out_dense p
  obtain ⟨hrun, hend⟩ := encodePixel_run_range p hrun
  refine hi.of_goesOn hb hf.goesOn ha.dense (hf.pixOut ▸ hi.pixOut_dense)
    (fun hd => nomatch hs.symm.trans (hf.stage.symm.trans hd)) fun _ => ⟨?_, ?_, hrun, ?_, ?_⟩
  · rw [hf.n, hf.pixIn, hcount]
  · rw [hf.n, encodePixel_pixPos]
    exact hn
  · rw [hf.n]
    exact hend
  · rw [hf.cmd]
    exact hcmd

/-- The end of an encode loop gives `outLen` the number of bytes in OUT. -/
theorem Inv.finishEncode (hi : Inv s) (hb : s.phase = .busy) (hs : s.stage = .encode) (hc : s.cmd = some c)
    (h : finishEncode c s = .next t) : Inv t := by
  obtain ⟨-, -, -, -, hcmd⟩ := hi.encoding hb hs
  obtain ⟨⟨hd, rfl⟩, rfl⟩ | ⟨-, rfl⟩ := finishEncode_next h
  · refine inv_complete (s := writeOut s.cfg.endMarker s) hi.in_dense (Buffer.dense_writeN_end hi.out_dense _)
      hi.pixIn_dense hi.pixOut_dense ?_ (no_pixels hc nofun nofun)
    rintro _ ⟨⟩
    exact Buffer.length_writeN_end hi.out_dense _
  · refine inv_complete hi.in_dense hi.out_dense hi.pixIn_dense hi.pixOut_dense ?_ ?_
    · rintro _ ⟨⟩
      rfl
    · obtain henc | ⟨hd, hfile⟩ := hcmd
      · exact no_pixels henc nofun nofun
      · exact no_pixels hfile nofun nofun

/-! ### The engine's transition and the host's move -/

theorem Inv.engine (hi : Inv s) (hb : s.phase = .busy) (h : Engine s t) : Inv t := by
  cases h with
  | start c hc _ h => exact hi.started hb hc h
  | pixel p _ _ hs hn _ h => exact h ▸ hi.encodePixel hb hs hn p
  | encodeEnds c hc hs _ h => exact hi.finishEncode hb hs hc h
  | chunk _ _ _ _ hs hn hf hd h =>
    obtain ⟨b0, _, i, -, -, -, hpay, hd', hkind⟩ := fetchChunk_some hf
    cases hd.symm.trans hd'
    rw [chunkLen_eq_size, ← hkind] at hpay
    exact hi.ran hb hs hn hpay h
  | truncated _ _ _ _ _ h =>
    subst h
    exact inv_raise (s := refresh s) hi.in_dense hi.pixIn_dense (by decide)
  | decodeEnds c hc hs hn h => exact hi.finishDecode hb hs hc hn h

theorem dense_resetOutputs (hout : Buffer.Dense s.outBuf) (hpixOut : Buffer.Dense s.pixOut) :
    Buffer.Dense (resetOutputs s).outBuf ∧ Buffer.Dense (resetOutputs s).pixOut := by
  unfold resetOutputs
  split
  · exact ⟨Buffer.dense_ofList _, Buffer.dense_ofList _⟩
  · exact ⟨hout, hpixOut⟩

theorem inv_blockReset (hi : Inv s) : Inv (blockReset s) where
  in_dense := blockReset_inBuf s ▸ hi.in_dense
  out_dense := (dense_resetOutputs hi.out_dense hi.pixOut_dense).1
  pixIn_dense := blockReset_pixIn s ▸ hi.pixIn_dense
  pixOut_dense := (dense_resetOutputs hi.out_dense hi.pixOut_dense).2
  err_iff := by simp
  unspecified _ := ⟨rfl, rfl⟩
  has_command := nofun
  decoding := nofun
  encoding := nofun
  out_result := nofun
  pixOut_result := nofun

theorem inv_issueCommand (hi : Inv s) (c : Command) : Inv (issueCommand c s) where
  in_dense := hi.in_dense
  out_dense := hi.out_dense
  pixIn_dense := hi.pixIn_dense
  pixOut_dense := hi.pixOut_dense
  err_iff := by simp
  unspecified _ := ⟨rfl, rfl⟩
  has_command _ := Option.some_ne_none c
  decoding _ := nofun
  encoding _ := nofun
  out_result := nofun
  pixOut_result := nofun

theorem Inv.moved {m : HostMove} (hi : Inv s) (h : Moved m s t) : Inv t := by
  cases h with
  | issued c _ _ h => exact h ▸ inv_issueCommand hi c
  | filledIn bytes _ hp h =>
    subst h
    exact { hi with
      in_dense := Buffer.dense_ofList bytes
      decoding := fun hb => absurd hb hp
      encoding := fun hb => absurd hb hp }
  | filledPixIn pixels _ hp h =>
    subst h
    exact { hi with
      pixIn_dense := Buffer.dense_ofList pixels
      decoding := fun hb => absurd hb hp
      encoding := fun hb => absurd hb hp }
  | resets _ h => exact h ▸ inv_blockReset hi
  | observed h => exact h ▸ hi

end

/-- Settles O49: the engine's transitions and the host's moves keep the invariant, which does not speak of the plan. -/
theorem stepKeepsInv : Obligations.StepKeepsInv := by
  intro s t hi h
  have hi := inv_afterTurn hi
  cases stepped_of_step h with
  | engine _ hb h => exact hi.engine hb h
  | waits _ _ h => exact h ▸ hi
  | host _ _ _ h => exact hi.moved h

end Sys2Proof.Machine

/-! The single chunks (43_decode R184 to R190): what is written to PIXOUT, and what stays as it was. -/

namespace Sys2Proof.Machine

/-- Settles O14: DIFF is one `put` of the delta pixel. -/
theorem diffPutsDeltaPixel : Obligations.DiffPutsDeltaPixel :=
  fun dr dg db s => putsOne_of_exec (exec_diff dr dg db s)

/-- Settles O16: RGB is one `put` of the three channels with the alpha of `prev`. -/
theorem rgbPutsLiteralKeepingAlpha : Obligations.RgbPutsLiteralKeepingAlpha :=
  fun r g b s => putsOne_of_exec (exec_rgb r g b s)

/-- Settles O17: RGBA is one `put` of the four channels. -/
theorem rgbaPutsLiteral : Obligations.RgbaPutsLiteral :=
  fun r g b a s => putsOne_of_exec (exec_rgba r g b a s)

section
variable {s t : State} {count : Nat}

theorem read_putRun_inside {j : Nat} (h : j < count) (s : State) :
    Buffer.read (putRun count s).pixOut (s.outPos + j) = some s.prev := by
  rw [putRun_pixOut, Buffer.read_writeN_inside _ _ _ _ (by rwa [List.length_replicate]), List.getElem_replicate]

theorem read_putRun_outside {a : Nat} (h : a < s.outPos ∨ s.outPos + count ≤ a) :
    Buffer.read (putRun count s).pixOut a = Buffer.read s.pixOut a := by
  rw [putRun_pixOut, Buffer.read_writeN_outside _ _ _ _ (by rwa [List.length_replicate])]

theorem chunkFrame_advance_putRun (len count : Nat) (s : State) : ChunkFrame s (advance len (putRun count s)) := by
  constructor <;> rfl

theorem exec_run_of_overflow (h : s.n < s.outPos + count) : exec (.run count) s = .next (raise .runOverflow s) :=
  if_pos h

theorem pixelsWritten_of_not_run {i : Instr} (h : ∀ c, i ≠ .run c) : pixelsWritten i = 1 := by
  cases i with
  | run c => exact absurd rfl (h c)
  | index _ | diff _ _ _ | luma _ _ _ | rgb _ _ _ | rgba _ _ _ _ => rfl

end

/-- Settles O18: a run that fits is `putRun`, whose writes are read back by position. -/
theorem runRepeatsPrevious : Obligations.RunRepeatsPrevious := fun count s hfits =>
  ⟨_, exec_run_of_fits hfits, rfl, rfl, rfl, fun _ hj => read_putRun_inside hj s, fun _ ha => read_putRun_outside ha,
    chunkFrame_advance_putRun 1 count s⟩

/-- Settles O19: the first branch of RUN. -/
theorem runPastCountAborts : Obligations.RunPastCountAborts := fun _ s hn =>
  ⟨_, exec_run_of_overflow hn, aborted_raise _ s⟩

/-- Settles O20: a chunk that does not overflow puts one pixel or writes a run, and both are read back by position. -/
theorem chunkLeavesRestUnchanged : Obligations.ChunkLeavesRestUnchanged := by
  intro i s t hfits h
  cases exec_next h with
  | one p hp ht =>
    subst ht
    obtain ⟨-, houtPos, hinPos, hwritten, hothers, hframe⟩ := putsOne_advance_put p i.kind.size s
    rw [pixelsWritten_of_not_run hp]
    refine ⟨hframe, hinPos, houtPos, fun a ha => hothers a (by omega), fun j hj => ?_⟩
    rw [Nat.lt_one_iff.1 hj]
    exact hwritten
  | many c hi _ ht =>
    subst hi ht
    exact ⟨chunkFrame_advance_putRun 1 c s, rfl, rfl, fun _ ha => read_putRun_outside ha,
      fun _ hj => read_putRun_inside hj s⟩
  | overflow c hi hn _ => exact absurd (hfits c hi) (Nat.not_le.2 hn)

/-! ### The step around a chunk -/

section
variable {s : State}

/-- `MemRead` of a whole chunk inside the payload is the fetch (43_decode R182). -/
theorem fetchChunk_of_readN {b0 : Byte} {bs : List Byte} (hin : s.inPos + chunkLen b0 ≤ s.payLen)
    (hr : Buffer.readN s.inBuf (s.payBase + s.inPos) (chunkLen b0) = some (b0 :: bs)) :
    fetchChunk s = some (b0 :: bs) := by
  obtain ⟨len, hlen⟩ := Nat.exists_eq_add_of_le' (chunkLen_pos b0)
  have htag : Buffer.read s.inBuf (s.payBase + s.inPos) = some b0 := Buffer.readN_head (hlen ▸ hr)
  have hnonempty : ¬s.payLen ≤ s.inPos := by omega
  have hwhole : ¬s.payLen < s.inPos + chunkLen b0 := Nat.not_lt.2 hin
  simp only [fetchChunk, htag, if_neg hnonempty, if_neg hwhole, hr]

/-- With every payload byte read, a decode loop ends DONE; FILE_DEC also gives its header (45 R272). -/
theorem finishDecode_of_read (c : Command) (h : s.inPos = s.payLen) :
    finishDecode c s = .next (complete none (if c = .fileDec then some s.latch else none) s) := by
  have hread : ¬s.inPos ≠ s.payLen := not_not.2 h
  cases c <;> exact if_neg hread

end

/-- Settles O22: the loop takes a decode step, which fetches the chunk. -/
theorem stepRunsDecodedChunk : Obligations.StepRunsDecodedChunk := by
  intro s b0 bs i rest hrun hn hin hr hd
  rw [step_of_pixels_left hrun hn]
  exact decodeStep_of_fetch (fetchChunk_of_readN (s := afterTurn s) hin hr) hd

/-- Settles O24: the two ends of the decode loop. -/
theorem decodeEndChecksConsumption : Obligations.DecodeEndChecksConsumption := by
  intro s hrun hn
  obtain ⟨c, hc⟩ := Option.ne_none_iff_exists'.1 hrun.command
  have hstep := step_of_pixels_done hrun hc hn
  refine ⟨fun hunread => ?trailing, fun hread => ?done⟩
  case trailing => exact ⟨_, hstep.trans (finishDecode_of_unread (s := afterTurn s) c hunread), aborted_raise _ _⟩
  case done =>
    simp only [hc, Option.some.injEq]
    exact ⟨_, hstep.trans (finishDecode_of_read (s := afterTurn s) c hread), completed_complete _ _ _, rfl⟩

end Sys2Proof.Machine

/-! The host (45 R277, 70_reset R340 to R346): its moves, and when a result can be read. -/

namespace Sys2Proof.Machine

section
variable {s : State}

/-! ### Reads, by phase -/

theorem readOutLen_of_not_done (h : s.phase ≠ .done) : readOutLen s = .error .outLenUnspecified := by
  unfold readOutLen
  split
  next hd _ => exact absurd hd h
  next => rfl

theorem readHdr_of_not_done (h : s.phase ≠ .done) : readHdr s = .error .hdrUnspecified := by
  unfold readHdr
  split
  next hd _ => exact absurd hd h
  next => rfl

theorem readOut_of_busy (h : s.phase = .busy) : readOut s = .error .outputReadWhileBusy := by
  rw [readOut, h]

theorem readPixOut_of_busy (h : s.phase = .busy) : readPixOut s = .error .outputReadWhileBusy := by
  rw [readPixOut, h]

theorem readOut_of_no_result (hb : s.phase ≠ .busy) (hd : s.phase ≠ .done) :
    readOut s = .error .outputNotAResult := by
  unfold readOut
  split
  next h => exact absurd h hb
  next h _ => exact absurd h hd
  next => rfl

theorem readPixOut_of_no_result (hb : s.phase ≠ .busy) (hd : s.phase ≠ .done) :
    readPixOut s = .error .outputNotAResult := by
  unfold readPixOut
  split
  next h => exact absurd h hb
  next h _ => exact absurd h hd
  next => rfl

theorem Buffer.Dense.readN_all {α : Type} {m : Buffer α} (h : Buffer.Dense m) :
    Buffer.readN m 0 m.length = some (Buffer.toList m) := by
  have hread := Buffer.readN_ofList_all (Buffer.toList m)
  rwa [← h.eq_ofList, Buffer.toList, List.length_map] at hread

theorem readOut_of_done (hp : s.phase = .done) (hout : Buffer.Dense s.outBuf)
    (hlen : s.outLen = some s.outBuf.length) : readOut s = .ok (Buffer.toList s.outBuf) := by
  simp only [readOut, hp, hlen, hout.readN_all]

theorem readPixOut_of_done (hp : s.phase = .done) (hpix : Buffer.Dense s.pixOut)
    (hcount : resultPixels s = some s.pixOut.length) : readPixOut s = .ok (Buffer.toList s.pixOut) := by
  simp only [readPixOut, hp, hcount, hpix.readN_all]

theorem resetOutputs_of_not_busy (h : s.phase ≠ .busy) : resetOutputs s = s := if_neg h

end

/-- Settles O26: an abort leaves the phase ERROR, in which every read is refused. -/
theorem abortLeavesNothingToRead : Obligations.AbortLeavesNothingToRead := by
  intro code s
  have hb : (raise code s).phase ≠ .busy := by simp
  have hd : (raise code s).phase ≠ .done := by simp
  exact ⟨aborted_raise code s, readOut_of_no_result hb hd, readPixOut_of_no_result hb hd, readOutLen_of_not_done hd,
    readHdr_of_not_done hd⟩

/-- Settles O27: an issue is accepted when no transaction runs, and is then `issueCommand`. -/
theorem issueMakesBlockBusy : Obligations.IssueMakesBlockBusy := fun _ _ hp =>
  ⟨_, if_neg hp, rfl, rfl, rfl, rfl, rfl, rfl, rfl, rfl, rfl, rfl, rfl⟩

/-- Settles O28: each of the moves tests the phase first. -/
theorem busyHostMovesAreRefused : Obligations.BusyHostMovesAreRefused := by
  intro s hb
  refine ⟨fun _ => if_pos hb, fun _ => if_pos hb, fun _ => if_pos hb, ?_, ?_⟩
  · rw [hostMove, readOut_of_busy hb, observe]
  · rw [hostMove, readPixOut_of_busy hb, observe]

/-- Settles O29: a fill puts the buffer of the string in the place of the input. -/
theorem hostFillsInputs : Obligations.HostFillsInputs := fun bytes pixels _ hp =>
  ⟨⟨_, if_neg hp, Buffer.readN_ofList_all bytes, Buffer.size_ofList bytes, rfl⟩,
    ⟨_, if_neg hp, Buffer.readN_ofList_all pixels, Buffer.size_ofList pixels, rfl⟩⟩

/-- Settles O30: in the other phases every read is an error, OUT and PIXOUT by the name of the phase. -/
theorem resultsReadOnlyWhenDone : Obligations.ResultsReadOnlyWhenDone := by
  intro s hd
  rw [readOutLen_of_not_done hd, readHdr_of_not_done hd]
  by_cases hb : s.phase = .busy
  · rw [readOut_of_busy hb, readPixOut_of_busy hb]
    exact ⟨nofun, nofun, nofun, nofun⟩
  · rw [readOut_of_no_result hb hd, readPixOut_of_no_result hb hd]
    exact ⟨nofun, nofun, nofun, nofun⟩

/-- Settles O31: by the invariant a result is a string of the length that its field or its command says. -/
theorem doneResultsCanBeRead : Obligations.DoneResultsCanBeRead := by
  intro s hi hd
  refine ⟨fun len hlen => ?out, fun count hcount => ?pixOut⟩
  case out =>
    obtain rfl := hi.out_result hd len hlen
    exact ⟨_, readOut_of_done hd hi.out_dense hlen, List.length_map _, rfl⟩
  case pixOut =>
    obtain rfl := hi.pixOut_result hd count hcount
    exact ⟨_, readPixOut_of_done hd hi.pixOut_dense hcount, List.length_map _, rfl⟩

/-- Settles O32: a reset is never refused, and leaves the phase IDLE, in which no result can be read. -/
theorem resetIsAlwaysEnabled : Obligations.ResetIsAlwaysEnabled := by
  intro s
  have hb : (blockReset s).phase ≠ .busy := by simp
  have hd : (blockReset s).phase ≠ .done := by simp
  refine ⟨_, rfl, rfl, rfl, rfl, rfl, rfl, blockReset_cfg s, blockReset_inBuf s, blockReset_pixIn s, fun hp => ?_,
    readOut_of_no_result hb hd, readPixOut_of_no_result hb hd⟩
  rw [blockReset_outBuf, blockReset_pixOut, resetOutputs_of_not_busy hp]
  exact ⟨rfl, rfl⟩

/-- Settles O33: the status record of the power-on state, evaluated. -/
theorem powerOnStatus : Obligations.PowerOnStatus := ⟨rfl, rfl, rfl, rfl, rfl, rfl, rfl, rfl⟩

end Sys2Proof.Machine

/-! The first transition of a command (45_file_and_commands R271 to R274, 42_header R150, R151): its checks in order. -/

namespace Sys2Proof.Machine

section
variable {s t : State} {c : Command} {e : ErrCode}

/-- A command whose first transition is an abort. -/
theorem step_aborts_of_startCommand (h : Issued c s)
    (hs : startCommand c (afterTurn s) = .next (raise e (afterTurn s))) :
    ∃ t, step s = .next t ∧ Aborted e (afterTurn s) t :=
  ⟨_, (step_of_issued h).trans hs, aborted_raise e _⟩

/-! ### The checks of the header -/

theorem legalChannels_iff {b : Byte} : legalChannels b = true ↔ b = 3 ∨ b = 4 := by simp [legalChannels]

theorem legalColorSpace_iff {b : Byte} : legalColorSpace b = true ↔ b = 0 ∨ b = 1 := by simp [legalColorSpace]

theorem headerEncode_of_channels {h : Header} (hc : ¬legalChannels h.channels = true) :
    headerEncode h = .error .hdrChannels :=
  if_pos (by simpa using hc)

theorem headerEncode_of_colorSpace {h : Header} (hc : legalChannels h.channels = true)
    (hs : ¬legalColorSpace h.colorSpace = true) : headerEncode h = .error .hdrColorSpace :=
  (if_neg (by simpa using hc)).trans (if_pos (by simpa using hs))

section
variable {m0 m1 m2 m3 w0 w1 w2 w3 h0 h1 h2 h3 ch cs : Byte}

theorem headerDecode_of_magic (hm : [m0, m1, m2, m3] ≠ magic) :
    headerDecode [m0, m1, m2, m3, w0, w1, w2, w3, h0, h1, h2, h3, ch, cs] = .error .hdrMagic :=
  if_pos hm

theorem headerDecode_of_channels (hm : [m0, m1, m2, m3] = magic) (hc : ¬legalChannels ch = true) :
    headerDecode [m0, m1, m2, m3, w0, w1, w2, w3, h0, h1, h2, h3, ch, cs] = .error .hdrChannels :=
  (if_neg (not_not.2 hm)).trans (if_pos (by simpa using hc))

theorem headerDecode_of_colorSpace (hm : [m0, m1, m2, m3] = magic) (hc : legalChannels ch = true)
    (hs : ¬legalColorSpace cs = true) :
    headerDecode [m0, m1, m2, m3, w0, w1, w2, w3, h0, h1, h2, h3, ch, cs] = .error .hdrColorSpace :=
  (if_neg (not_not.2 hm)).trans ((if_neg (by simpa using hc)).trans (if_pos (by simpa using hs)))

theorem headerDecode_of_all (hm : [m0, m1, m2, m3] = magic) (hc : legalChannels ch = true)
    (hs : legalColorSpace cs = true) :
    headerDecode [m0, m1, m2, m3, w0, w1, w2, w3, h0, h1, h2, h3, ch, cs] =
      .ok ⟨unbe32 w0 w1 w2 w3, unbe32 h0 h1 h2 h3, ch, cs⟩ :=
  (if_neg (not_not.2 hm)).trans ((if_neg (by simpa using hc)).trans (if_neg (by simpa using hs)))

end

/-! ### HDR_ENC -/

theorem startCommand_hdrEnc_error {h : Header} (he : headerEncode h = .error e) :
    startCommand (.hdrEnc h) s = .next (raise e s) := by
  simp only [startCommand, runHdrEnc, he]

theorem startCommand_hdrEnc {h : Header} {hb : List Byte} (he : headerEncode h = .ok hb) (hw : s.cfg.posWidth = none) :
    startCommand (.hdrEnc h) s = .next (complete (some hb.length) none (writeOut hb (clearOut s))) := by
  simp only [startCommand, runHdrEnc, he]
  exact if_pos (fitsPosWidth_none hw _)

theorem readOut_complete {bytes : List Byte} {len : Nat} (ho : s.outBuf = Buffer.ofList bytes)
    (hlen : bytes.length = len) (h : Option Header) : readOut (complete (some len) h s) = .ok bytes := by
  simp [readOut, ho, ← hlen]

end

/-- Settles O34: the serializer's three answers, the bytes being all that OUT then holds. -/
theorem hdrEncCommand : Obligations.HdrEncCommand := by
  intro h s hi hw
  rw [← legalChannels_iff, ← legalColorSpace_iff]
  refine ⟨fun hc => ?channels, fun hc hs => ?colorSpace, fun hc hs => ?done⟩
  case channels => exact step_aborts_of_startCommand hi (startCommand_hdrEnc_error (headerEncode_of_channels hc))
  case colorSpace => exact step_aborts_of_startCommand hi (startCommand_hdrEnc_error (headerEncode_of_colorSpace hc hs))
  case done =>
    obtain ⟨hb, he⟩ : ∃ hb, headerEncode h = .ok hb := ⟨_, headerEncode_eq_ok_iff.2 ⟨hc, hs, rfl⟩⟩
    obtain ⟨-, -, hbytes⟩ := headerEncode_ok he
    have hlen := headerEncode_length he
    have hstart := startCommand_hdrEnc (s := afterTurn s) he hw
    have hread := readOut_complete (writeOut_clearOut_outBuf hb (afterTurn s)) hlen none
    rw [hlen] at hstart
    rw [List.append_assoc] at hbytes
    exact ⟨_, (step_of_issued hi).trans hstart, by constructor <;> rfl, hread.trans (congrArg Except.ok hbytes)⟩

/-! ### HDR_DEC -/

section
variable {s : State} {bytes : List Byte} {e : ErrCode}

theorem startCommand_hdrDec_length (hlen : Buffer.size s.inBuf ≠ headerLen) :
    startCommand .hdrDec s = .next (raise .hdrLength s) :=
  if_pos hlen

/-- A string IN of 14 bytes passes HDR_DEC's length check and is read whole. -/
theorem readN_header_of_length_eq (hin : s.inBuf = Buffer.ofList bytes) (hlen : bytes.length = headerLen) :
    ¬Buffer.size s.inBuf ≠ headerLen ∧ Buffer.readN s.inBuf 0 headerLen = some bytes := by
  rw [hin, Buffer.size_ofList, ← hlen, Buffer.readN_ofList_all]
  exact ⟨not_not.2 rfl, rfl⟩

theorem startCommand_hdrDec_error (hin : s.inBuf = Buffer.ofList bytes) (hlen : bytes.length = headerLen)
    (he : headerDecode bytes = .error e) : startCommand .hdrDec s = .next (raise e s) := by
  obtain ⟨hsize, hread⟩ := readN_header_of_length_eq hin hlen
  simp only [startCommand, runHdrDec, if_neg hsize, readIn_of_readN hread, he]

theorem startCommand_hdrDec {h : Header} (hin : s.inBuf = Buffer.ofList bytes) (hlen : bytes.length = headerLen)
    (he : headerDecode bytes = .ok h) : startCommand .hdrDec s = .next (complete none (some h) s) := by
  obtain ⟨hsize, hread⟩ := readN_header_of_length_eq hin hlen
  simp only [startCommand, runHdrDec, if_neg hsize, readIn_of_readN hread, he]

end

/-- Settles O35: the length is checked before the read, and the deserializer makes the other checks. -/
theorem hdrDecCommand : Obligations.HdrDecCommand := by
  intro s bytes hi hin
  refine ⟨fun hlen => ?length, ?_⟩
  case length =>
    refine step_aborts_of_startCommand hi (startCommand_hdrDec_length ?_)
    rwa [show (afterTurn s).inBuf = Buffer.ofList bytes from hin, Buffer.size_ofList]
  intro m0 m1 m2 m3 w0 w1 w2 w3 h0 h1 h2 h3 c cs hbytes
  subst hbytes
  rw [← legalChannels_iff, ← legalColorSpace_iff]
  have habort {e : ErrCode} (he : headerDecode _ = .error e) : ∃ t, step s = .next t ∧ Aborted e (afterTurn s) t :=
    step_aborts_of_startCommand hi (startCommand_hdrDec_error (s := afterTurn s) hin rfl he)
  refine ⟨fun hm => habort (headerDecode_of_magic hm), fun hm => ⟨fun hc => habort (headerDecode_of_channels hm hc),
    fun hc hs => habort (headerDecode_of_colorSpace hm hc hs), fun hc hs => ?_⟩⟩
  have hstart := startCommand_hdrDec (s := afterTurn s) hin rfl (headerDecode_of_all hm hc hs)
  exact ⟨_, (step_of_issued hi).trans hstart, completed_complete _ _ _⟩

/-! ### ENCODE and DECODE -/

section
variable {s : State} {count : Nat}

theorem overCapacity_of_lt {c : Config} {m : Nat} (hm : c.maxPixels = some m) (h : m < count) :
    overCapacity c count = true := by
  simp [overCapacity, hm, h]

theorem fitsPosWidth_zero (c : Config) : fitsPosWidth c 0 = true := by
  unfold fitsPosWidth
  split <;> simp

theorem fitsPosWidth_of_le {c : Config} {w : Nat} (hw : c.posWidth = some w) (h : 2 ^ w ≤ count) :
    fitsPosWidth c count = false := by
  simp [fitsPosWidth, hw, h]

theorem startCommand_encode_over (h : overCapacity s.cfg (Buffer.size s.pixIn) = true) :
    startCommand .encode s = .next (raise .capacity s) :=
  if_pos h

theorem startCommand_decode_over (h : overCapacity s.cfg count = true) :
    startCommand (.decode count) s = .next (raise .capacity s) :=
  if_pos h

/-- Within MAX_PIXELS a DECODE is up to the counters. -/
theorem startCommand_decode_of_capacity (h : overCapacity s.cfg count = false) :
    startCommand (.decode count) s = startDecode 0 (Buffer.size s.inBuf) count s :=
  if_neg (by simp [h])

/-- An ENCODE within MAX_PIXELS whose pixel count the counters hold begins its loop: no byte is in OUT yet. -/
theorem startCommand_encode_begins (hcap : overCapacity s.cfg (Buffer.size s.pixIn) = false)
    (hfits : fitsPosWidth s.cfg (Buffer.size s.pixIn) = true) :
    startCommand .encode s = .next (initEncode (Buffer.size s.pixIn) (clearOut s)) := by
  have hloop : startEncode (Buffer.size s.pixIn) (clearOut s) = .next (initEncode (Buffer.size s.pixIn) (clearOut s)) :=
    (if_pos hfits).trans (if_pos (fitsPosWidth_zero s.cfg))
  exact (if_neg (by simp [hcap])).trans hloop

end

/-- Settles O37: the capacity is the first check of both commands. -/
theorem capacityIsCheckedFirst : Obligations.CapacityIsCheckedFirst := by
  intro s m hm
  exact ⟨fun hi hn => step_aborts_of_startCommand hi (startCommand_encode_over (overCapacity_of_lt hm hn)),
    fun count hi hn => step_aborts_of_startCommand hi (startCommand_decode_over (overCapacity_of_lt hm hn))⟩

/-- Settles O38: with both checks passed the transition is `initDecode`. -/
theorem decodeStartValues : Obligations.DecodeStartValues := by
  intro s count hi hcap hn hlen
  have hfits : (fitsPosWidth s.cfg (Buffer.size s.inBuf) && fitsPosWidth s.cfg count) = true := by
    rw [hlen, hn, Bool.and_self]
  have hstart := (startCommand_decode_of_capacity (s := afterTurn s) hcap).trans (if_pos hfits)
  exact ⟨_, (step_of_issued hi).trans hstart, hi.busy, rfl, rfl, lookup_zeroed, rfl, rfl, rfl, rfl, rfl, rfl, rfl, rfl,
    rfl, rfl, rfl⟩

/-- Settles O39: with both checks passed the transition is `initEncode` on an empty OUT. -/
theorem encodeStartValues : Obligations.EncodeStartValues := by
  intro s hi hcap hn
  have hstart := startCommand_encode_begins (s := afterTurn s) hcap hn
  exact ⟨_, (step_of_issued hi).trans hstart, hi.busy, rfl, rfl, lookup_zeroed, rfl, rfl, rfl, rfl, rfl, rfl, rfl, rfl,
    rfl, rfl, rfl⟩

/-- Settles O43: within MAX_PIXELS the counters are what is checked next, and one of them is too narrow. -/
theorem narrowCountersRefuseDecode : Obligations.NarrowCountersRefuseDecode := by
  intro s count w hi hw hcap hwide
  have hnarrow : ¬(fitsPosWidth s.cfg (Buffer.size s.inBuf) && fitsPosWidth s.cfg count) = true := by
    obtain hwide | hwide := hwide <;> simp [fitsPosWidth_of_le hw hwide]
  rw [step_of_issued hi]
  exact (startCommand_decode_of_capacity (s := afterTurn s) hcap).trans (if_neg hnarrow)

/-! ### FILE_ENC -/

section
variable {s : State} {h : Header} {hb : List Byte} {e : ErrCode}

theorem startCommand_fileEnc_shape (hshape : Buffer.size s.pixIn ≠ pixelCount h) :
    startCommand (.fileEnc h) s = .next (raise .encShape s) :=
  if_pos hshape

theorem startCommand_fileEnc_header (hshape : Buffer.size s.pixIn = pixelCount h) (he : headerEncode h = .error e) :
    startCommand (.fileEnc h) s = .next (raise e s) := by
  simp only [startCommand, startFileEnc, if_neg (not_not.2 hshape), he]

theorem startCommand_fileEnc_over (hshape : Buffer.size s.pixIn = pixelCount h) (he : headerEncode h = .ok hb)
    (hcap : overCapacity s.cfg (pixelCount h) = true) : startCommand (.fileEnc h) s = .next (raise .capacity s) := by
  simp only [startCommand, startFileEnc, if_neg (not_not.2 hshape), he, if_pos hcap]

theorem startCommand_fileEnc_begins (hshape : Buffer.size s.pixIn = pixelCount h) (he : headerEncode h = .ok hb)
    (hcap : overCapacity s.cfg (pixelCount h) = false) (hw : s.cfg.posWidth = none) :
    startCommand (.fileEnc h) s = .next (initEncode (pixelCount h) (writeOut hb (clearOut (setLatch h s)))) := by
  simp only [startCommand, startFileEnc, if_neg (not_not.2 hshape), he, hcap, if_neg Bool.false_ne_true]
  exact (if_pos (fitsPosWidth_none hw _)).trans
    (checkOutLen_unbounded (s := initEncode (pixelCount h) (writeOut hb (clearOut (setLatch h s)))) hw)

end

/-- Settles O40: the three checks as the branches of the command's start. -/
theorem fileEncChecksInOrder : Obligations.FileEncChecksInOrder := by
  intro s h hi hw
  refine ⟨fun hshape => step_aborts_of_startCommand hi (startCommand_fileEnc_shape hshape), fun hshape =>
    ⟨fun e he => step_aborts_of_startCommand hi (startCommand_fileEnc_header hshape he), fun hb he =>
      ⟨fun hcap => step_aborts_of_startCommand hi (startCommand_fileEnc_over hshape he hcap), fun hcap => ?_⟩⟩⟩
  have hstart := startCommand_fileEnc_begins (s := afterTurn s) hshape he hcap hw
  refine ⟨_, (step_of_issued hi).trans hstart, ?_⟩
  simp [Buffer.writeN_empty, afterTurn, hi.busy]

/-! ### FILE_DEC -/

section
variable {s : State} {f : List Byte} {h : Header} {e : ErrCode}

theorem startCommand_fileDec_length (hin : s.inBuf = Buffer.ofList f) (hlen : f.length < headerLen) :
    startCommand .fileDec s = .next (raise .hdrLength s) := by
  refine if_pos ?_
  rwa [hin, Buffer.size_ofList]

/-- A string IN of 14 bytes or more passes FILE_DEC's length check, and its first 14 are read. -/
theorem readN_header_of_length_ge (hin : s.inBuf = Buffer.ofList f) (hlen : headerLen ≤ f.length) :
    ¬Buffer.size s.inBuf < headerLen ∧ Buffer.readN s.inBuf 0 headerLen = some (f.take headerLen) := by
  rw [hin, Buffer.size_ofList, Buffer.readN_ofList f 0 headerLen (by omega), List.drop_zero]
  exact ⟨Nat.not_lt.2 hlen, rfl⟩

theorem startCommand_fileDec_header (hin : s.inBuf = Buffer.ofList f) (hlen : headerLen ≤ f.length)
    (he : headerDecode (f.take headerLen) = .error e) : startCommand .fileDec s = .next (raise e s) := by
  obtain ⟨hlong, hread⟩ := readN_header_of_length_ge hin hlen
  simp only [startCommand, startFileDec, if_neg hlong, readIn_of_readN hread, he]

theorem startCommand_fileDec_body (hin : s.inBuf = Buffer.ofList f) (hlen : headerLen ≤ f.length)
    (he : headerDecode (f.take headerLen) = .ok h) : startCommand .fileDec s = startFileDecBody h s := by
  obtain ⟨hlong, hread⟩ := readN_header_of_length_ge hin hlen
  simp only [startCommand, startFileDec, if_neg hlong, readIn_of_readN hread, he]

theorem startFileDecBody_short (hin : s.inBuf = Buffer.ofList f) (hroom : f.length < headerLen + s.cfg.markerLen) :
    startFileDecBody h s = .next (raise .fileShort s) := by
  refine if_pos ?_
  rwa [hin, Buffer.size_ofList]

section
variable (hin : s.inBuf = Buffer.ofList f) (hroom : headerLen + s.cfg.markerLen ≤ f.length)
include hin hroom

theorem startFileDecBody_over (hcap : overCapacity s.cfg (pixelCount h) = true) :
    startFileDecBody h s = .next (raise .capacity s) := by
  have hlong : ¬Buffer.size s.inBuf < headerLen + s.cfg.markerLen := by
    rw [hin, Buffer.size_ofList]
    exact Nat.not_lt.2 hroom
  rw [startFileDecBody, if_neg hlong, if_pos hcap]

/-- With room for the marker and the capacity kept, the last bytes of the file are checked. -/
theorem startFileDecBody_marker (hcap : overCapacity s.cfg (pixelCount h) = false) :
    startFileDecBody h s =
      if markerAccepted (f.drop (f.length - s.cfg.markerLen)) s then
        startDecode headerLen (f.length - s.cfg.markerLen - headerLen) (pixelCount h)
          (setLatch h (afterMarkerCheck (f.drop (f.length - s.cfg.markerLen)) s))
      else .next (raise .endMarker (afterMarkerCheck (f.drop (f.length - s.cfg.markerLen)) s)) := by
  have hsize : Buffer.size s.inBuf = f.length := by rw [hin, Buffer.size_ofList]
  have hmarker : Buffer.readN s.inBuf (f.length - s.cfg.markerLen) s.cfg.markerLen =
      some (f.drop (f.length - s.cfg.markerLen)) := by
    rw [hin, Buffer.readN_ofList _ _ _ (by omega), List.take_of_length_le (by rw [List.length_drop]; omega)]
  rw [startFileDecBody, hsize, if_neg (Nat.not_lt.2 hroom), hcap, if_neg Bool.false_ne_true, readIn_of_readN hmarker]

theorem startFileDecBody_rejects (hcap : overCapacity s.cfg (pixelCount h) = false)
    (hm : markerAccepted (f.drop (f.length - s.cfg.markerLen)) s = false) :
    ∃ t, startFileDecBody h s = .next t ∧ Aborted .endMarker s t := by
  obtain ⟨d, hd⟩ := afterMarkerCheck_eq (f.drop (f.length - s.cfg.markerLen)) s
  rw [startFileDecBody_marker hin hroom hcap, hm, if_neg Bool.false_ne_true, hd]
  exact ⟨_, rfl, by constructor <;> rfl⟩

theorem startFileDecBody_begins (hcap : overCapacity s.cfg (pixelCount h) = false)
    (hm : markerAccepted (f.drop (f.length - s.cfg.markerLen)) s = true) (hw : s.cfg.posWidth = none) :
    ∃ d, startFileDecBody h s = .next (initDecode headerLen (f.length - s.cfg.markerLen - headerLen) (pixelCount h)
      (setLatch h { s with draws := d })) := by
  obtain ⟨d, hd⟩ := afterMarkerCheck_eq (f.drop (f.length - s.cfg.markerLen)) s
  refine ⟨d, ?_⟩
  rw [startFileDecBody_marker hin hroom hcap, if_pos hm, hd, startDecode, setLatch_cfg, fitsPosWidth_none hw,
    fitsPosWidth_none hw]
  rfl

end

end

/-- Settles O41: the checks are the branches of the command's start and of its body, in their order. -/
theorem fileDecChecksInOrder : Obligations.FileDecChecksInOrder := by
  intro s f hi hin hw
  have hin : (afterTurn s).inBuf = Buffer.ofList f := hin
  refine ⟨fun hlen => step_aborts_of_startCommand hi (startCommand_fileDec_length hin hlen), fun hlen =>
    ⟨fun e he => step_aborts_of_startCommand hi (startCommand_fileDec_header hin hlen he), fun h he => ?_⟩⟩
  have hbody := startCommand_fileDec_body hin hlen he
  refine ⟨fun hroom => step_aborts_of_startCommand hi (hbody.trans (startFileDecBody_short hin hroom)), fun hroom =>
    ⟨fun hcap => step_aborts_of_startCommand hi (hbody.trans (startFileDecBody_over hin hroom hcap)), fun hcap =>
      ⟨fun hm => ?rejects, fun hm => ?begins⟩⟩⟩
  case rejects =>
    obtain ⟨t, ht, habort⟩ := startFileDecBody_rejects (h := h) hin hroom hcap hm
    exact ⟨t, (step_of_issued hi).trans (hbody.trans ht), habort⟩
  case begins =>
    obtain ⟨d, ht⟩ := startFileDecBody_begins (h := h) hin hroom hcap hm hw
    exact ⟨_, (step_of_issued hi).trans (hbody.trans ht), hi.busy, rfl, rfl, rfl, rfl, rfl, rfl, rfl, rfl,
      lookup_zeroed, rfl, rfl⟩

/-- Settles O42: the marker is compared before the setting is looked at. -/
theorem markerCheckFollowsSetting : Obligations.MarkerCheckFollowsSetting := by
  intro bytes s
  refine ⟨?_, ?_, ?_, ?_⟩
  · rintro rfl
    exact markerAccepted_match s
  · intro hset
    rw [markerAccepted, hset, ite_self]
  · intro hset hne
    rw [markerAccepted, if_neg hne, hset]
  · intro hset hne
    rw [markerAccepted, if_neg hne, hset]

end Sys2Proof.Machine
